-- ==== Sys2Proof/Word.lean ====
section
/-! DEFINITION. The word types of the block: bytes of the data space, 16-bit sample words, 32-bit
operation words, addresses and registers. -/

namespace Sys2Proof

/-- One byte of the data space (20_memory.md R60). -/
abbrev Byte := BitVec 8

/-- A 16-bit sample word, the unit of a data-space access (20_memory.md R63). -/
abbrev Half := BitVec 16

/-- A 32-bit value: an operation word, an address, a command or a host-port register. -/
abbrev Word := BitVec 32

end Sys2Proof
end

