-- ==== Sys2Proof/Syntax.lean ====
section
/-! DEFINITION. The operations of the block, one constructor per row of spec/opcode_table.json, and
the assembler's source lines (30_encoding.md R101, R102). -/

namespace Sys2Proof

/-- An operation with its operand fields (30_encoding.md R91, R92, R95). Every operand is exactly as
wide as its field, so every term of this type is an operation that some legal word encodes. -/
inductive Instr where
  /-- Scheduler step (43_sequencer.md R165). -/
  | seq
  /-- Poll the flag word until bit 8 is clear (44_exchange.md R185). -/
  | waitf
  /-- Write block `(V, J)` to the region (R186). -/
  | fillf
  /-- Set flag bits 8 and 15 (R187). -/
  | postf
  /-- Write block `(V, J)` to slot `FC mod 4` (R195). -/
  | filla
  /-- Poll `CMD` until it is zero (R196). -/
  | waita
  /-- Hand slot `FC mod 4` to the consumer (R197). -/
  | posta
  /-- Wait until the store buffer is empty (R206). -/
  | fence
  /-- Advance `J`; branch to `TGT` while passes remain (45_control.md R230). -/
  | loopj (tgt : BitVec 8)
  /-- Jump to `TGT` (R231). -/
  | jmp (tgt : BitVec 8)
  /-- Sine-ROM entry `IDX` into `RES` (40_sine_table.md R113). -/
  | lut (idx : BitVec 7)
  /-- Shuffle the sample `XIN` into `RES` (42_shuffler.md R154). -/
  | shuf (xin : BitVec 8)
  /-- Modulator sample of variant `VAR`, pass `PJ`, sample index `SI` (41_modulator.md R133). -/
  | dds (var : BitVec 3) (pj : BitVec 9) (si : BitVec 12)
  /-- Shuffled word of variant `VAR`, pass `PJ`, sample index `SI` (R134). -/
  | gen (var : BitVec 3) (pj : BitVec 9) (si : BitVec 12)
  /-- Stop the producer (45_control.md R232). -/
  | halt
  deriving DecidableEq, Repr

/-- A `TGT` operand as the assembler reads it: a number, or a label standing for the index of the
labelled line (R101). A name is the list of its characters. -/
inductive AsmTarget where
  | index (n : Nat)
  | label (name : List Char)
  deriving DecidableEq, Repr

/-- What one assembler line asks for: an operation of R95 with operands that are any numbers, or one
of the two pseudo-instructions of R102. -/
inductive AsmOp where
  | seq | waitf | fillf | postf | filla | waita | posta | fence | halt
  | loopj (tgt : AsmTarget)
  | jmp (tgt : AsmTarget)
  | lut (idx : Nat)
  | shuf (xin : Nat)
  | dds (var pj si : Nat)
  | gen (var pj si : Nat)
  /-- `WAITF; FILLF; FENCE; POSTF` -/
  | sendf
  /-- `FILLA; WAITA; FENCE; POSTA` -/
  | senda
  deriving DecidableEq, Repr

/-- An assembler line: an operation, with a label where the line has one (R101). -/
structure AsmLine where
  label : Option (List Char)
  op : AsmOp
  deriving DecidableEq, Repr

end Sys2Proof
end

