-- ==== Sys2Proof/Decode.lean ====
section
/-! DEFINITION. The decoder (30_encoding.md R96) and, after it, the encoder, both written from the
formats of R91 and the opcode map of R95. -/

namespace Sys2Proof

/-- Why a word is illegal (R100). Both raise `ILLEGAL_OP`. -/
inductive DecodeError where
  /-- R100 (a): the opcode field is 0. -/
  | opcodeZero
  /-- R100 (b): a reserved bit of the opcode's format is 1. -/
  | reservedBitSet
  deriving DecidableEq, Repr

/-- `OP = w[3:0]` (R91). -/
def opField (w : Word) : BitVec 4 := w.extractLsb' 0 4

/-- `TGT = w[11:4]` of format T. -/
def tgtField (w : Word) : BitVec 8 := w.extractLsb' 4 8

/-- `IDX = w[10:4]` of format L. -/
def idxField (w : Word) : BitVec 7 := w.extractLsb' 4 7

/-- `XIN = w[11:4]` of format X. -/
def xinField (w : Word) : BitVec 8 := w.extractLsb' 4 8

/-- `VAR = w[6:4]` of format G. -/
def varField (w : Word) : BitVec 3 := w.extractLsb' 4 3

/-- `SI = w[18:7]` of format G. -/
def siField (w : Word) : BitVec 12 := w.extractLsb' 7 12

/-- `PJ = w[27:19]` of format G. -/
def pjField (w : Word) : BitVec 9 := w.extractLsb' 19 9

/-- The instruction, provided the reserved field of its format is 0 (R96, R97). -/
def ifReservedZero {n : Nat} (reserved : BitVec n) (i : Instr) : Except DecodeError Instr :=
  if reserved = 0#n then .ok i else .error .reservedBitSet

/-- A word of format N: `w[31:4]` reserved. -/
def decodeN (w : Word) (i : Instr) : Except DecodeError Instr :=
  ifReservedZero (w.extractLsb' 4 28) i

/-- A word of format T: `w[31:12]` reserved. -/
def decodeT (w : Word) (mk : BitVec 8 → Instr) : Except DecodeError Instr :=
  ifReservedZero (w.extractLsb' 12 20) (mk (tgtField w))

/-- A word of format L: `w[31:11]` reserved. -/
def decodeL (w : Word) (mk : BitVec 7 → Instr) : Except DecodeError Instr :=
  ifReservedZero (w.extractLsb' 11 21) (mk (idxField w))

/-- A word of format X: `w[31:12]` reserved. -/
def decodeX (w : Word) (mk : BitVec 8 → Instr) : Except DecodeError Instr :=
  ifReservedZero (w.extractLsb' 12 20) (mk (xinField w))

/-- A word of format G: `w[31:28]` reserved. -/
def decodeG (w : Word) (mk : BitVec 3 → BitVec 9 → BitVec 12 → Instr) : Except DecodeError Instr :=
  ifReservedZero (w.extractLsb' 28 4) (mk (varField w) (pjField w) (siField w))

/-- Decode one operation word (R96): total, and decided from the word alone. -/
def decode (w : Word) : Except DecodeError Instr :=
  match (opField w).toNat with
  | 0x0 => .error .opcodeZero
  | 0x1 => decodeN w .seq
  | 0x2 => decodeN w .waitf
  | 0x3 => decodeN w .fillf
  | 0x4 => decodeN w .postf
  | 0x5 => decodeN w .filla
  | 0x6 => decodeN w .waita
  | 0x7 => decodeN w .posta
  | 0x8 => decodeN w .fence
  | 0x9 => decodeT w .loopj
  | 0xA => decodeT w .jmp
  | 0xB => decodeL w .lut
  | 0xC => decodeX w .shuf
  | 0xD => decodeG w .dds
  | 0xE => decodeG w .gen
  | _ => decodeN w .halt

/-- The instruction the decoder reads from the bits `w` of an opcode-table row of `nbits` bits. A word
of the program store has 32 bits, has no byte order (20_memory.md R60) and is one whole operation
(R90). -/
def decodeTableWord (nbits w : Nat) : Option Instr :=
  if nbits ≤ 32 then
    match decode (BitVec.ofNat 32 (w % 2 ^ nbits)) with
    | .ok i => some i
    | .error _ => none
  else none

/-- Pattern of format N: 28 reserved zeros, then `OP`. -/
def encodeN (op : BitVec 4) : Word := (0#28 ++ op).cast (by decide)

/-- Pattern of format T: 20 reserved zeros, `TGT`, `OP`. -/
def encodeT (op : BitVec 4) (tgt : BitVec 8) : Word := (0#20 ++ tgt ++ op).cast (by decide)

/-- Pattern of format L: 21 reserved zeros, `IDX`, `OP`. -/
def encodeL (op : BitVec 4) (idx : BitVec 7) : Word := (0#21 ++ idx ++ op).cast (by decide)

/-- Pattern of format X: 20 reserved zeros, `XIN`, `OP`. -/
def encodeX (op : BitVec 4) (xin : BitVec 8) : Word := (0#20 ++ xin ++ op).cast (by decide)

/-- Pattern of format G: 4 reserved zeros, `PJ`, `SI`, `VAR`, `OP`. -/
def encodeG (op : BitVec 4) (var : BitVec 3) (pj : BitVec 9) (si : BitVec 12) : Word :=
  (0#4 ++ pj ++ si ++ var ++ op).cast (by decide)

/-- The word of an instruction (R91, R95). -/
def encode : Instr → Word
  | .seq => encodeN 0x1#4
  | .waitf => encodeN 0x2#4
  | .fillf => encodeN 0x3#4
  | .postf => encodeN 0x4#4
  | .filla => encodeN 0x5#4
  | .waita => encodeN 0x6#4
  | .posta => encodeN 0x7#4
  | .fence => encodeN 0x8#4
  | .loopj tgt => encodeT 0x9#4 tgt
  | .jmp tgt => encodeT 0xA#4 tgt
  | .lut idx => encodeL 0xB#4 idx
  | .shuf xin => encodeX 0xC#4 xin
  | .dds var pj si => encodeG 0xD#4 var pj si
  | .gen var pj si => encodeG 0xE#4 var pj si
  | .halt => encodeN 0xF#4

end Sys2Proof
end

