-- ==== Sys2Proof/Config.lean ====
section
/-! DEFINITION. The constants that 00_scope.md R8 fixes, the reference programs of 45_control.md R240
and R241, and the free values of the model: the constants with no body that stand for what the spec
leaves open. -/

namespace Sys2Proof

/-- PASSES of R8: the passes of one symbol. -/
def Config.passes : Nat := 313

/-- PASS_LEN of R8: the samples of one pass, which are the sample words of one block. -/
def Config.passLen : Nat := 4096

/-- BLOCK_BYTES of R8, which is also SLOT_BYTES (decision D9): the bytes of one block. -/
def Config.blockBytes : Nat := 8192

/-- SLOTS of R8: the slots of the address-handoff protocol. -/
def Config.slots : Nat := 4

/-- The bytes the four slots take, the 32768 of the start check (60_exceptions.md R258). -/
def Config.regionSpan : Nat := 32768

/-- FLAG_BUSY_BIT of R8: the "buffer busy" bit of the flag word. -/
def Config.flagBusyBit : Nat := 8

/-- FLAG_NEW_BIT of R8: the "new data" bit of the flag word. -/
def Config.flagNewBit : Nat := 15

/-- The two flag bits as `POSTF` sets them, `0x8100` (44_exchange.md R187). -/
def Config.flagBits : Half := 0x8100#16

/-- The reference address-handoff program, the reset content of `PROG[0..6]` (45_control.md R240). -/
def Config.addressProgram : List Word :=
  [0x00000001#32, 0x00000005#32, 0x00000006#32, 0x00000008#32, 0x00000007#32, 0x00000019#32,
    0x0000000A#32]

/-- The reference flag-bit program (45_control.md R241), which a host loads before a start. -/
def Config.flagProgram : List Word :=
  [0x00000001#32, 0x00000002#32, 0x00000003#32, 0x00000008#32, 0x00000004#32, 0x00000019#32,
    0x0000000A#32]

/-- FREE VALUE (U4; 10_state.md R49). The byte that a data-space address holds before anything has
written it: "a model treats each such byte as a draw, not as zero". It has no body, so nothing can be
proved of its value. Log entry 2. -/
opaque Config.drawnByte : Nat → Byte

/-- FREE VALUE (43_sequencer.md R164). The `OFFSET` that a `SEQ` leaves when `MSGLEN = 0`, for which
the spec says "`mod 0` has no meaning"; a function of the `OFFSET` before it. No run reaches the case,
since a start rejects it. Log entry 9. -/
opaque Config.offsetModZero : BitVec 16 → BitVec 16

end Sys2Proof
end

