-- ==== Sys2Proof/Machine/State.lean ====
section
/-! DEFINITION. The state of the machine: the block's registers and stores (10_state.md R21, R32, R33,
R36), shared memory (20_memory.md R69), the consumer (44_exchange.md R214), the platform's parameters
(00_scope.md R9) and the order of the agents' turns. INVENTORY.md lists every field with its rule and
its reset value. -/

namespace Sys2Proof.Machine

/-- The data space `Mem` (20_memory.md R69): the bytes that something has written, addresses strictly
rising. An address that is not listed holds a draw (10_state.md R49). -/
abbrev Memory := List Host.Cell

/-- The location of a producer access (10_state.md R36). -/
inductive Loc where
  /-- A physical byte address of the data space. -/
  | data (addr : Word)
  /-- The command register. -/
  | cmd
  deriving DecidableEq, Repr

/-- A pending producer store (10_state.md R36). The width of an access is fixed by its location
(20_memory.md R63): 16 bits in the data space, 32 bits in `CMD`. -/
inductive PendingStore where
  | data (addr : Word) (value : Half)
  | cmd (value : Word)
  deriving DecidableEq, Repr

/-- The protocol the consumer follows, `CPROTO` (44_exchange.md R214). -/
inductive Protocol where
  | flag
  | addr
  deriving DecidableEq, Repr

/-- The consumer's state (44_exchange.md R214). -/
inductive Consumer where
  | idle
  /-- A block at physical address `a` is being read, and `k` of its words have been. -/
  | reading (a : Word) (k : Nat)
  deriving DecidableEq, Repr

/-- One turn of an agent (00_scope.md R16), with the choices the spec leaves to that agent. -/
inductive Turn where
  /-- The producer's step (10_state.md R23). -/
  | producer
  /-- The drain takes entry `k` of the store buffer, counted from the oldest (20_memory.md R75). -/
  | drain (k : Nat)
  /-- A consumer step (44_exchange.md R214 to R219); `keep15` is the draw of R216. -/
  | consumer (keep15 : Bool)
  /-- A host read of `width` bytes at a byte offset of the port (10_state.md R46). -/
  | hostRead (offset width : Nat)
  /-- A host write of `width` bytes at a byte offset of the port. -/
  | hostWrite (offset width : Nat) (value : Word)
  /-- Block reset (70_reset_and_hazards.md R280). -/
  | reset
  /-- The platform maps `bytes` bytes at `base` and establishes the launch premises for a consumer of
  protocol `proto` (R282 step 2, R284). -/
  | launch (base : Word) (bytes : Nat) (proto : Protocol)
  /-- The platform writes one byte of the data space before a start (20_memory.md R69). -/
  | platformWrite (addr : Word) (value : Byte)
  deriving DecidableEq, Repr

/-- Why the machine stops with no next state. -/
inductive Fault where
  /-- Raised by `FILLF`, `POSTF` and `FILLA` when a byte they would store lies outside the mapped
  region: the stuck case of 20_memory.md R66 and U10. Safe: the spec gives it no next state. Log
  entry 6. -/
  | outsideRegion
  deriving DecidableEq, Repr

/-- Why the machine refuses to go on. -/
inductive Refusal where
  /-- An arm of `exec` with no meaning yet. No arm answers it. Safe. -/
  | notModelled (mnemonic : String)
  /-- A host access that is not an aligned 32-bit access inside the window (10_state.md R46 (1), U12).
  Safe. Log entry 8. -/
  | hostAccess
  /-- `WAITF` with a store pending that covers one of the two bytes it loads and not the other
  (20_memory.md R74, U11). It arises in no run. Safe. Log entry 7. -/
  | partialOverlap
  /-- Launch parameters outside their constraint of 00_scope.md R9. Safe. Log entry 5. -/
  | launchParameters
  deriving DecidableEq, Repr

/-- The state. -/
structure State where
  /-- 10_state.md R22. -/
  pc : BitVec 8
  /-- R24: variant index. -/
  v : BitVec 3
  /-- R25: pass index. -/
  j : BitVec 9
  /-- R26: result of the last datapath operation. -/
  res : Word
  /-- R27: frame counter. -/
  fc : Word
  /-- R28: consecutive unsuccessful polls. -/
  wcnt : Word
  /-- R29: the scheduler's index into the message. -/
  offset : BitVec 16
  /-- R29: `old_bit`. -/
  old : Bool
  /-- R29: `cur_bit`. -/
  cur : Bool
  /-- R29: `new_bit`. -/
  new : Bool
  /-- R29: the scheduler's phase. -/
  phase : Bool
  /-- R30: the producer is not executing. -/
  halted : Bool
  /-- R30: a fault has been raised. -/
  fault : Bool
  /-- R30: the last operation was a poll that had to stay. -/
  waiting : Bool
  /-- R30, 60_exceptions.md R250: the cause code. -/
  cause : BitVec 4
  /-- 60_exceptions.md R254: `pc` of the faulting operation. -/
  faultpc : BitVec 8
  /-- R31: physical base of the data region. -/
  base : Word
  /-- R31: poll limit, 0 for none. -/
  waitlim : Word
  /-- R31: message length in bits. -/
  msglen : BitVec 16
  /-- R32: the program store. -/
  prog : Vector Word 256
  /-- R33: the message store; bit `b` of entry `m` is `MSG[32m + b]` (R45). -/
  msg : Vector Word 2048
  /-- R36: the store buffer, oldest first. -/
  sb : List PendingStore
  /-- 20_memory.md R69: the data space. -/
  mem : Memory
  /-- 20_memory.md R69: the command register. -/
  cmdReg : Word
  /-- 00_scope.md R9: `BASE_VALUE`, the address at which the platform has mapped the region. -/
  mapBase : Word
  /-- 00_scope.md R9: `REGION_BYTES`, the bytes mapped there. -/
  mapBytes : Nat
  /-- 44_exchange.md R214: `CPROTO`. -/
  cproto : Protocol
  /-- 44_exchange.md R214: idle or reading. -/
  consumer : Consumer
  /-- 44_exchange.md R214: the words of the block read so far. -/
  buf : List Half
  /-- 44_exchange.md R220: the blocks emitted so far, oldest first. -/
  emitted : List (List Half)
  /-- MODEL's own: what the host's reads have returned, oldest first. Log entry 8. -/
  hostSeen : List Word
  /-- MODEL's own: the turns still to come. Log entry 1. -/
  turns : List Turn
  deriving DecidableEq, Repr

/-- A program store with the given words from entry 0 on and `0x00000000` after them. -/
def programOf (ws : List Word) : Vector Word 256 :=
  ⟨((ws ++ List.replicate 256 0x00000000#32).take 256).toArray, by
    rw [List.size_toArray, List.length_take, List.length_append, List.length_replicate]
    omega⟩

/-- The reset contents of `PROG` (10_state.md R32): the reference address-handoff program in entries
0 to 6, `0x00000000` elsewhere. -/
def resetProg : Vector Word 256 := programOf Config.addressProgram

/-- The machine right after reset (10_state.md R47, 70_reset_and_hazards.md R280): every piece of block
state at the value R47 states. Shared memory, the consumer and the platform's parameters, to which a
block reset gives no value, are at the values of log entry 3. -/
def State.reset : State where
  pc := 0#8
  v := 0#3
  j := 0#9
  res := 0#32
  fc := 0#32
  wcnt := 0#32
  offset := 0#16
  old := false
  cur := false
  new := false
  phase := false
  halted := true
  fault := false
  waiting := false
  cause := 0#4
  faultpc := 0#8
  base := 0#32
  waitlim := 0#32
  msglen := 0#16
  prog := resetProg
  msg := Vector.replicate 2048 0#32
  sb := []
  mem := []
  cmdReg := 0#32
  mapBase := 0x20000000#32
  mapBytes := 32768
  cproto := .addr
  consumer := .idle
  buf := []
  emitted := []
  hostSeen := []
  turns := []

end Sys2Proof.Machine
end

