-- ==== Sys2Proof/Machine/Flags.lean ====
section
/-! DEFINITION. The cause codes (60_exceptions.md R250), the flag word's bits (44_exchange.md R184) and
the status and scheduler words the host reads (10_state.md R41 to R43). -/

namespace Sys2Proof.Machine

/-- The causes a fault can have (60_exceptions.md R250). -/
inductive Cause where
  | illegalOp
  | argRange
  | peerUnresponsive
  | init
  deriving DecidableEq, Repr

/-- The code of a cause in `CAUSE` (R250). Codes 5 to 15 are reserved and never produced. -/
def Cause.code : Cause → BitVec 4
  | .illegalOp => 1#4
  | .argRange => 2#4
  | .peerUnresponsive => 3#4
  | .init => 4#4

/-- Bit 8 of the flag word: the region belongs to the consumer (44_exchange.md R184). -/
def flagBusy (f : Half) : Bool := f.getLsbD Config.flagBusyBit

/-- Bit 15 of the flag word. -/
def flagNew (f : Half) : Bool := f.getLsbD Config.flagNewBit

/-- What `POSTF` stores for a sample word: the word with bits 8 and 15 set (R187). -/
def postedWord (w : Half) : Half := w ||| Config.flagBits

/-- What the consumer's done step writes for the flag word `f`: `(f & 0x7EFF) | (b << 15)`, with `b`
drawn from `0` and `f[15]` (R216). -/
def freedWord (f : Half) (keep15 : Bool) : Half :=
  (f &&& 0x7EFF#16) ||| (if keep15 && flagNew f then 0x8000#16 else 0#16)

/-- `SBEMPTY` (10_state.md R42). -/
def State.sbEmpty (s : State) : Bool := s.sb.isEmpty

/-- The `CTRL` register as it reads (R41): `RUN = 1 - HALTED` in bit 0, the rest 0. -/
def State.ctrlWord (s : State) : Word := (0#31 ++ BitVec.ofBool (!s.halted)).cast (by decide)

/-- The `STATUS` register (R42). -/
def State.statusWord (s : State) : Word :=
  (0#8 ++ s.pc ++ s.faultpc ++ s.cause ++ BitVec.ofBool s.sbEmpty ++ BitVec.ofBool s.waiting
    ++ BitVec.ofBool s.fault ++ BitVec.ofBool s.halted).cast (by decide)

/-- The `SEQSTATE` register (R43). -/
def State.seqstateWord (s : State) : Word :=
  (0#9 ++ s.v ++ BitVec.ofBool s.phase ++ BitVec.ofBool s.new ++ BitVec.ofBool s.cur
    ++ BitVec.ofBool s.old ++ s.offset).cast (by decide)

/-- The `CURSOR` register (R43). -/
def State.cursorWord (s : State) : Word := (0#23 ++ s.j).cast (by decide)

end Sys2Proof.Machine
end

