-- ==== Sys2Proof/Machine/Operands.lean ====
section
/-! DEFINITION. The operand forms: variant bits (30_encoding.md R93), signed and unsigned results
(10_state.md R26), message bits (R33, R45), the pass-index range (R25) and the addresses a producer
operation uses (20_memory.md R67). -/

namespace Sys2Proof.Machine

/-- `phase` of a variant index (30_encoding.md R93). -/
def variantPhase (v : BitVec 3) : Bool := v.getLsbD 2

/-- `ramp_up` of a variant index. -/
def variantUp (v : BitVec 3) : Bool := v.getLsbD 1

/-- `ramp_down` of a variant index. -/
def variantDown (v : BitVec 3) : Bool := v.getLsbD 0

/-- `phase<<2 | ramp_up<<1 | ramp_down` (43_sequencer.md R162 step 6). -/
def variantIndex (phase up down : Bool) : BitVec 3 :=
  BitVec.ofBool phase ++ BitVec.ofBool up ++ BitVec.ofBool down

/-- `sext_32` of a signed result (00_scope.md R11, 10_state.md R26). -/
def signedResult (x : Int) : Word := BitVec.ofInt 32 x

/-- `zext_32` of an unsigned result. -/
def unsignedResult {n : Nat} (x : BitVec n) : Word := x.setWidth 32

/-- A pass index outside `[0, 313)`, the condition of `ARG_RANGE` (60_exceptions.md R252). -/
def outOfPasses (j : BitVec 9) : Bool := Config.passes ≤ j.toNat

/-- `MSG[k]`, read through the 32-bit entries of the message store (10_state.md R33, R45). -/
def State.msgBit (s : State) (k : BitVec 16) : Bool :=
  (s.msg[k.toNat / 32]'(by have := k.isLt; omega)).getLsbD (k.toNat % 32)

/-- The slot number `FC mod 4` (10_state.md R27). -/
def State.slot (s : State) : Nat := s.fc.toNat % Config.slots

/-- `SlotAddr(s) = BASE + 8192·s`, as an integer (20_memory.md R67). -/
def State.slotAddr (s : State) (slot : Nat) : Nat := s.base.toNat + Config.blockBytes * slot

/-- The 32-bit address of an integer byte address. Under the start check every address the block forms
fits (R67). -/
def address (a : Nat) : Word := BitVec.ofNat 32 a

/-- `n` bytes from the integer address `a` on lie in the region the platform has mapped, and in the
32-bit address space (20_memory.md R66). -/
def State.mapped (s : State) (a n : Nat) : Bool :=
  s.mapBase.toNat ≤ a && a + n ≤ s.mapBase.toNat + s.mapBytes && a + n ≤ 2 ^ 32

end Sys2Proof.Machine
end

