-- ==== Sys2Proof/Machine/Ops.lean ====
section
/-! DEFINITION. The shared operations: shared memory (20_memory.md R60, R69), the store buffer (R72 to
R76), fetch (10_state.md R23), the program counter (R22), fault entry (60_exceptions.md R254) and the
poll outcome (44_exchange.md R182). There is no return from a fault (60_exceptions.md R259): the one way
out is block reset, `State.blockReset`, beside the entry. -/

namespace Sys2Proof.Machine

/-! ### Shared memory -/

/-- What something has written at an address, if anything has. -/
def Memory.read? : Memory → Nat → Option Byte
  | [], _ => none
  | (x, b) :: m, a => if x = a then some b else Memory.read? m a

/-- Write one byte, keeping the addresses strictly rising. -/
def Memory.write : Memory → Nat → Byte → Memory
  | [], a, b => [(a, b)]
  | (x, c) :: m, a, b =>
    if a < x then (a, b) :: (x, c) :: m
    else if a = x then (a, b) :: m
    else (x, c) :: Memory.write m a b

/-- The canonical form of the data space: addresses strictly rising and below 2^32. An unlisted address
reads as a draw, which no listed byte is, so no entry is superfluous (log entry 2). -/
abbrev Memory.wf (m : Memory) : Prop :=
  m.Pairwise (fun x y => x.1 < y.1) ∧ ∀ c ∈ m, c.1 < 2 ^ 32

/-- The byte at an address: what was written there, else a draw (10_state.md R49). -/
def State.byteAt (s : State) (a : Nat) : Byte := (s.mem.read? a).getD (Config.drawnByte a)

/-- The little-endian 16-bit value at an address (20_memory.md R60). Address arithmetic is modulo 2^32
(log entry 10). -/
def State.halfAt (s : State) (a : Word) : Half := s.byteAt (a + 1#32).toNat ++ s.byteAt a.toNat

/-- Write a little-endian 16-bit value (R60). -/
def Memory.writeHalf (m : Memory) (a : Word) (h : Half) : Memory :=
  (m.write a.toNat (h.extractLsb' 0 8)).write (a + 1#32).toNat (h.extractLsb' 8 8)

/-! ### The store buffer -/

/-- The location of a pending store. -/
def PendingStore.loc : PendingStore → Loc
  | .data a _ => .data a
  | .cmd _ => .cmd

/-- The width of a pending store in bytes (20_memory.md R63). -/
def PendingStore.width : PendingStore → Nat
  | .data _ _ => 2
  | .cmd _ => 4

/-- The value of a pending store to data-space address `a`, if it is one. -/
def PendingStore.dataAt (a : Word) : PendingStore → Option Half
  | .data b v => if b = a then some v else none
  | .cmd _ => none

/-- The value of a pending store to `CMD`, if it is one. -/
def PendingStore.cmdValue : PendingStore → Option Word
  | .data _ _ => none
  | .cmd v => some v

/-- A pending store that covers just one of the two bytes of a 16-bit load at `a` (R74, U11). -/
def PendingStore.partlyCovers (a : Word) : PendingStore → Bool
  | .data b _ => b = a + 1#32 || b + 1#32 = a
  | .cmd _ => false

/-- Stores issued by one operation enter the young end of the store buffer in order (R71, R72). -/
def State.enqueue (s : State) (es : List PendingStore) : State := { s with sb := s.sb ++ es }

/-- Some pending store partly overlaps a 16-bit load at `a`. -/
def State.overlapsPartly (s : State) (a : Word) : Bool := s.sb.any (PendingStore.partlyCovers a)

/-- `MemRead(a, 2)` (R74): the youngest pending store to `a`, else the data space. -/
def State.loadHalf (s : State) (a : Word) : Half :=
  (s.sb.filterMap (PendingStore.dataAt a)).getLast?.getD (s.halfAt a)

/-- `CmdRead()` (R73, R74): the youngest pending store to `CMD`, else the command register. -/
def State.loadCmd (s : State) : Word :=
  (s.sb.filterMap PendingStore.cmdValue).getLast?.getD s.cmdReg

/-- A pending store becomes visible: it is written to shared memory (R75). -/
def State.perform (s : State) : PendingStore → State
  | .data a v => { s with mem := s.mem.writeHalf a v }
  | .cmd v => { s with cmdReg := v }

/-- Entry `k` of the store buffer, provided no older entry has its location (R75). -/
def State.drainable? (s : State) (k : Nat) : Option PendingStore :=
  match s.sb[k]? with
  | none => none
  | some e => if (s.sb.take k).all (fun o => o.loc ≠ e.loc) then some e else none

/-- The drain step on entry `k` (R75). Where it may not take that entry, it takes none. -/
def State.drain (s : State) (k : Nat) : State :=
  match s.drainable? k with
  | none => s
  | some e => { s.perform e with sb := s.sb.eraseIdx k }

/-! ### The producer's registers -/

/-- The operation word at `pc` (10_state.md R23). -/
def State.fetch (s : State) : Word := s.prog[s.pc.toNat]'s.pc.isLt

/-- An operation completes at the next index: `pc <- (pc + 1) mod 256`, `WAITING <- 0` (R22, R30). -/
def State.advance (s : State) : State := { s with pc := s.pc + 1#8, waiting := false }

/-- An operation completes with a branch: `pc <- TGT`, `WAITING <- 0` (R13, R30). -/
def State.jumpTo (s : State) (tgt : BitVec 8) : State := { s with pc := tgt, waiting := false }

/-- A datapath result: `RES` is written and the operation completes (R26). -/
def State.complete (s : State) (r : Word) : State := ({ s with res := r }).advance

/-! ### Faults -/

/-- `raise C(pc)`, the fault entry (60_exceptions.md R254). -/
def State.raise (s : State) (c : Cause) : State :=
  { s with fault := true, halted := true, cause := c.code, faultpc := s.pc, waiting := false }

/-- Block reset (70_reset_and_hazards.md R280): the block state takes its reset values, the store buffer
is discarded; shared memory, the consumer and the platform are unchanged. -/
def State.blockReset (s : State) : State :=
  { State.reset with
    mem := s.mem, cmdReg := s.cmdReg, mapBase := s.mapBase, mapBytes := s.mapBytes
    cproto := s.cproto, consumer := s.consumer, buf := s.buf, emitted := s.emitted
    hostSeen := s.hostSeen, turns := s.turns }

/-- `min(WCNT + 1, 2^32 - 1)` (44_exchange.md R182). -/
def nextCount (n : Word) : Nat := min (n.toNat + 1) (2 ^ 32 - 1)

/-- The common poll outcome (44_exchange.md R182). -/
def State.poll (s : State) (busy : Bool) : State :=
  if busy then
    if s.waitlim ≠ 0#32 ∧ s.waitlim.toNat ≤ nextCount s.wcnt then s.raise .peerUnresponsive
    else { s with wcnt := BitVec.ofNat 32 (nextCount s.wcnt), waiting := true }
  else ({ s with wcnt := 0#32 }).advance

/-- The start check (60_exceptions.md R258). -/
def State.startOk (s : State) : Bool :=
  1 ≤ s.msglen.toNat && s.base ≠ 0#32 && s.base.toNat % 4 = 0
    && s.base.toNat + Config.regionSpan ≤ 2 ^ 32

end Sys2Proof.Machine
end

