-- ==== Sys2Proof/Machine/Consumer.lean ====
section
/-! DEFINITION. The consumer agent (44_exchange.md R214 to R219). Its accesses act on shared memory
directly, never on the store buffer (20_memory.md R78). -/

namespace Sys2Proof.Machine

/-- A block begins to be read, with `buf` empty (R215, R217). -/
def State.beginBlock (s : State) (a : Word) : State := { s with consumer := .reading a 0, buf := [] }

/-- `buf` is emitted as the next output block, and the consumer is idle (R216, R219). -/
def State.emitBlock (s : State) : State :=
  { s with emitted := s.emitted ++ [s.buf], consumer := .idle }

/-- The one step an idle consumer may have: flag-bit begin (R215) or address-handoff take (R217). The
region's base is the address the platform mapped it at, which does not follow a changed `BASE`
(70_reset_and_hazards.md R290; log entry 11). -/
def State.consumerIdle (s : State) : State :=
  match s.cproto with
  | .flag => if flagBusy (s.halfAt s.mapBase) then s.beginBlock s.mapBase else s
  | .addr => if s.cmdReg ≠ 0#32 then ({ s with cmdReg := 0#32 }).beginBlock s.cmdReg else s

/-- The consumer reads word `k` of the block at `a` (R218). -/
def State.consumerRead (s : State) (a : Word) (k : Nat) : State :=
  { s with buf := s.buf ++ [s.halfAt (a + address (2 * k))], consumer := .reading a (k + 1) }

/-- The done step (R216, R219); in the flag-bit protocol it frees the flag word in the same atomic
step, with `keep15` the draw for bit 15. -/
def State.consumerDone (s : State) (a : Word) (keep15 : Bool) : State :=
  match s.cproto with
  | .flag =>
    if a = s.mapBase then
      ({ s with mem := s.mem.writeHalf s.mapBase (freedWord (s.halfAt s.mapBase) keep15) }).emitBlock
    else s
  | .addr => s.emitBlock

/-- A turn of the consumer: the one step its state enables, or none. -/
def State.consumerStep (s : State) (keep15 : Bool) : State :=
  match s.consumer with
  | .idle => s.consumerIdle
  | .reading a k =>
    if k < Config.passLen then s.consumerRead a k
    else if k = Config.passLen then s.consumerDone a keep15
    else s

end Sys2Proof.Machine
end

