-- ==== Sys2Proof/Machine/Control.lean ====
section
/-! DEFINITION. The control operations (45_control.md): `LOOPJ`, `JMP` and `HALT`. -/

namespace Sys2Proof.Machine

/-- `LOOPJ tgt` (R230). The test reads the `J` just written. -/
def execLoopj (tgt : BitVec 8) (s : State) : Host.Outcome State Fault Refusal :=
  if outOfPasses s.j then .next (s.raise .argRange)
  else
    let s' := { s with j := s.j + 1#9 }
    if outOfPasses s'.j then .next s'.advance else .next (s'.jumpTo tgt)

/-- `JMP tgt` (R231). -/
def execJmp (tgt : BitVec 8) (s : State) : Host.Outcome State Fault Refusal :=
  .next (s.jumpTo tgt)

/-- `HALT` (R232). -/
def execHalt (s : State) : Host.Outcome State Fault Refusal :=
  .next ({ s with halted := true }).advance

end Sys2Proof.Machine
end

