-- ==== Sys2Proof/Machine/Shuffler.lean ====
section
/-! DEFINITION. The amplitude shuffler (42_shuffler.md R150) and `SHUF` (R154). -/

namespace Sys2Proof.Machine

/-- `Shuffle(x)` (R150), the source's code on `v = x >> 1`. -/
def shuffle (x : Byte) : Half :=
  let v : Half := x.setWidth 16 >>> 1
  (v &&& 0x0F#16) <<< 0 ||| (v &&& 0x10#16) <<< 1 ||| (v &&& 0x20#16) <<< 2 ||| (v &&& 0xC0#16) <<< 8

/-- `SHUF x` (R154): `RES <- zext_32(Shuffle(XIN))`. -/
def execShuf (xin : BitVec 8) (s : State) : Host.Outcome State Fault Refusal :=
  .next (s.complete (unsignedResult (shuffle xin)))

end Sys2Proof.Machine
end

