-- ==== Sys2Proof/Machine/SineTable.lean ====
section
/-! DEFINITION. The sine ROM (40_sine_table.md R110) and `LUT` (R113). -/

namespace Sys2Proof.Machine

/-- Entries 0 to 15 of R110. -/
def sineRow0 : List Int :=
  [0, 50, 100, 150, 200, 249, 297, 345, 392, 438, 483, 526, 569, 610, 650, 688]

/-- Entries 16 to 31 of R110. -/
def sineRow1 : List Int :=
  [724, 759, 792, 822, 851, 878, 903, 926, 946, 964, 980, 993, 1004, 1013, 1019, 1023]

/-- Entries 32 to 47 of R110. -/
def sineRow2 : List Int :=
  [1024, 1023, 1019, 1013, 1004, 993, 980, 964, 946, 926, 903, 878, 851, 822, 792, 759]

/-- Entries 48 to 63 of R110. -/
def sineRow3 : List Int :=
  [724, 688, 650, 610, 569, 526, 483, 438, 392, 345, 297, 249, 200, 150, 100, 50]

/-- Entries 64 to 79 of R110. -/
def sineRow4 : List Int :=
  [0, -50, -100, -150, -200, -249, -297, -345, -392, -438, -483, -526, -569, -610, -650, -688]

/-- Entries 80 to 95 of R110. -/
def sineRow5 : List Int :=
  [-724, -759, -792, -822, -851, -878, -903, -926, -946, -964, -980, -993, -1004, -1013, -1019, -1023]

/-- Entries 96 to 111 of R110. -/
def sineRow6 : List Int :=
  [-1024, -1023, -1019, -1013, -1004, -993, -980, -964, -946, -926, -903, -878, -851, -822, -792, -759]

/-- Entries 112 to 127 of R110. -/
def sineRow7 : List Int :=
  [-724, -688, -650, -610, -569, -526, -483, -438, -392, -345, -297, -249, -200, -150, -100, -50]

/-- The 128 constants of R110, literal. -/
def sineRom : List Int :=
  sineRow0 ++ sineRow1 ++ sineRow2 ++ sineRow3
    ++ sineRow4 ++ sineRow5 ++ sineRow6 ++ sineRow7

/-- `T[k]` (00_scope.md R13), read for `k < 128` only (40_sine_table.md R114). -/
def sine (k : Nat) : Int := sineRom.getD k 0

/-- `LUT idx` (R113): `RES <- sext_32(T[IDX])`. -/
def execLut (idx : BitVec 7) (s : State) : Host.Outcome State Fault Refusal :=
  .next (s.complete (signedResult (sine idx.toNat)))

end Sys2Proof.Machine
end

