-- ==== Sys2Proof/Machine/Modulator.lean ====
section
/-! DEFINITION. The quadrature modulator (41_modulator.md R122 to R132), on mathematical integers, and
the operations `DDS` (R133) and `GEN` (R134). `Int.tdiv` rounds toward zero, the `tdiv` of
00_scope.md R12. -/

namespace Sys2Proof.Machine

/-- Step 1, the baseband phase index (R122). -/
def sigIdx (phase : Bool) (j i : Nat) : Nat := (4096 * j + i) / 65536 + 64 * phase.toNat

/-- `SigSin(s) = T[s mod 128]` (R123). -/
def sigSin (s : Nat) : Int := sine (s % 128)

/-- `SigCos(s) = -T[(s + 32) mod 128]` (R123). -/
def sigCos (s : Nat) : Int := -sine ((s + 32) % 128)

/-- Step 2, the carrier phase index (R124). -/
def carIdx (i : Nat) : Nat := 8 * i

/-- `CarSin(i)` (R124). -/
def carSin (i : Nat) : Int := sine (carIdx i % 128)

/-- `CarCos(i)` (R124). -/
def carCos (i : Nat) : Int := -sine ((carIdx i + 32) % 128)

/-- Step 3, the mixer's numerator (R125). -/
def mixNum (phase : Bool) (j i : Nat) : Int :=
  carSin i * sigCos (sigIdx phase j i) - carCos i * sigSin (sigIdx phase j i)

/-- Step 3, `Mix` (R125). -/
def mix (phase : Bool) (j i : Nat) : Int := (mixNum phase j i).tdiv 1024

/-- Step 4, the envelope `Mag` (R128). -/
def mag (up down : Bool) (j : Nat) : Int :=
  if up ∧ j < 128 then sine (j / 4)
  else if down ∧ 185 < j then sine ((312 - j) / 4)
  else 1024

/-- Step 5, scaling: the product first, then the division (R129). -/
def scaled (phase up down : Bool) (j i : Nat) : Int := (mix phase j i * mag up down j).tdiv 1024

/-- Step 5, the byte domain before the clamp, `U` (R130). -/
def unclamped (phase up down : Bool) (j i : Nat) : Int := (scaled phase up down j i).tdiv 8 + 127

/-- `clamp(x, lo, hi) = min(hi, max(lo, x))` (00_scope.md R12). -/
def clamp (x lo hi : Int) : Int := min hi (max lo x)

/-- Step 5, `Sample` (R130): the clamp comes after the offset. -/
def sample (phase up down : Bool) (j i : Nat) : Int := clamp (unclamped phase up down j i) 0 255

/-- `Sample` of a variant index, as the 8 bits it fits in (R130, R132). -/
def variantSample (v : BitVec 3) (j i : Nat) : Byte :=
  BitVec.ofInt 8 (sample (variantPhase v) (variantUp v) (variantDown v) j i)

/-- Step 6, `Word(v, j, i)`: entry `4096·j + i` of the variant buffer `VB[v]` (R132). -/
def variantWord (v : BitVec 3) (j i : Nat) : Half := shuffle (variantSample v j i)

/-- `DDS v, j, i` (R133). -/
def execDds (var : BitVec 3) (pj : BitVec 9) (si : BitVec 12) (s : State) :
    Host.Outcome State Fault Refusal :=
  if outOfPasses pj then .next (s.raise .argRange)
  else .next (s.complete (unsignedResult (variantSample var pj.toNat si.toNat)))

/-- `GEN v, j, i` (R134). -/
def execGen (var : BitVec 3) (pj : BitVec 9) (si : BitVec 12) (s : State) :
    Host.Outcome State Fault Refusal :=
  if outOfPasses pj then .next (s.raise .argRange)
  else .next (s.complete (unsignedResult (variantWord var pj.toNat si.toNat)))

end Sys2Proof.Machine
end

