-- ==== Sys2Proof/Machine/Exchange.lean ====
section
/-! DEFINITION. The producer's side of the buffer exchange (44_exchange.md): `WAITF`, `FILLF`, `POSTF`,
`FILLA`, `WAITA`, `POSTA` and `FENCE`. -/

namespace Sys2Proof.Machine

/-- The 4096 stores of block `(v, j)` at the integer address `a`, in increasing `k` (R186, R195). -/
def blockStores (a : Nat) (v : BitVec 3) (j : Nat) : List PendingStore :=
  (List.range Config.passLen).map fun k => .data (address (a + 2 * k)) (variantWord v j k)

/-- Block `(V, J)` is stored at `a`; a block that does not lie in the mapped region has no meaning
(20_memory.md R66). The range check comes before anything else (60_exceptions.md R252). -/
def State.fillBlock (s : State) (a : Nat) : Host.Outcome State Fault Refusal :=
  if outOfPasses s.j then .next (s.raise .argRange)
  else if s.mapped a Config.blockBytes then
    .next (s.enqueue (blockStores a s.v s.j.toNat)).advance
  else .fault .outsideRegion

/-- `WAITF` (R185): a poll of bit 8 of the flag word at `BASE`. -/
def execWaitf (s : State) : Host.Outcome State Fault Refusal :=
  if s.overlapsPartly s.base then .refused .partialOverlap
  else .next (s.poll (flagBusy (s.loadHalf s.base)))

/-- `FILLF` (R186): block `(V, J)` into the region at `BASE`. -/
def execFillf (s : State) : Host.Outcome State Fault Refusal := s.fillBlock s.base.toNat

/-- `POSTF` (R187): word 0 of block `(V, J)`, recomputed, with bits 8 and 15 set, at `BASE`. -/
def execPostf (s : State) : Host.Outcome State Fault Refusal :=
  if outOfPasses s.j then .next (s.raise .argRange)
  else if s.mapped s.base.toNat 2 then
    .next (s.enqueue [.data s.base (postedWord (variantWord s.v s.j.toNat 0))]).advance
  else .fault .outsideRegion

/-- `FILLA` (R195): block `(V, J)` into slot `FC mod 4`. -/
def execFilla (s : State) : Host.Outcome State Fault Refusal := s.fillBlock (s.slotAddr s.slot)

/-- `WAITA` (R196): a poll of the command register. -/
def execWaita (s : State) : Host.Outcome State Fault Refusal :=
  .next (s.poll (s.loadCmd ≠ 0#32))

/-- `POSTA` (R197): the address of slot `FC mod 4` to `CMD`, then `FC <- (FC + 1) mod 2^32`. -/
def execPosta (s : State) : Host.Outcome State Fault Refusal :=
  .next (({ s with fc := s.fc + 1#32 }).enqueue [.cmd (address (s.slotAddr s.slot))]).advance

/-- `FENCE` (R206): it completes when the store buffer is empty. Until then it holds: the producer has
no step and nothing changes (20_memory.md R76). -/
def execFence (s : State) : Host.Outcome State Fault Refusal :=
  if s.sbEmpty then .next s.advance else .next s

end Sys2Proof.Machine
end

