-- ==== Sys2Proof/Machine/Sequencer.lean ====
section
/-! DEFINITION. The PSK31 bit scheduler (43_sequencer.md R162) and `SEQ` (R165). -/

namespace Sys2Proof.Machine

/-- Step 1 of R162: `(OFFSET + 1) mod MSGLEN`, the sum formed without truncation. With `MSGLEN = 0`,
which no run reaches, the result is a free value (R164). -/
def State.nextOffset (s : State) : BitVec 16 :=
  if s.msglen = 0#16 then Config.offsetModZero s.offset
  else BitVec.ofNat 16 ((s.offset.toNat + 1) % s.msglen.toNat)

/-- The transition of R162, steps 1 to 6: it writes `OFFSET`, `OLD`, `CUR`, `NEW`, `PHASE` and `V`. -/
def State.transition (s : State) : State :=
  let offset := s.nextOffset
  let cur := s.new
  let new := s.msgBit offset
  let phase := if cur then s.phase else !s.phase
  { s with
    offset := offset, old := s.cur, cur := cur, new := new, phase := phase
    v := variantIndex phase (!cur) (!new) }

/-- `SEQ` (R165): one transition, and a new symbol starts at pass 0. -/
def execSeq (s : State) : Host.Outcome State Fault Refusal :=
  .next ({ s.transition with j := 0#9 }).advance

end Sys2Proof.Machine
end

