-- ==== Sys2Proof/Machine/Dispatch.lean ====
section
/-! DEFINITION. The dispatch of 30_encoding.md R96: one arm per constructor of `Instr`. -/

namespace Sys2Proof.Machine

def exec (i : Instr) (s : State) : Host.Outcome State Fault Refusal :=
  match i with
  | .seq => Sys2Proof.Machine.execSeq s
  | .waitf => Sys2Proof.Machine.execWaitf s
  | .fillf => Sys2Proof.Machine.execFillf s
  | .postf => Sys2Proof.Machine.execPostf s
  | .filla => Sys2Proof.Machine.execFilla s
  | .waita => Sys2Proof.Machine.execWaita s
  | .posta => Sys2Proof.Machine.execPosta s
  | .fence => Sys2Proof.Machine.execFence s
  | .loopj tgt => Sys2Proof.Machine.execLoopj tgt s
  | .jmp tgt => Sys2Proof.Machine.execJmp tgt s
  | .lut idx => Sys2Proof.Machine.execLut idx s
  | .shuf xin => Sys2Proof.Machine.execShuf xin s
  | .dds var pj si => Sys2Proof.Machine.execDds var pj si s
  | .gen var pj si => Sys2Proof.Machine.execGen var pj si s
  | .halt => Sys2Proof.Machine.execHalt s

end Sys2Proof.Machine
end

