-- ==== Sys2Proof/Machine/HostPort.lean ====
section
/-! DEFINITION. The host register port (10_state.md R40 to R46) and the start (R41, 60_exceptions.md
R258). -/

namespace Sys2Proof.Machine

/-- What a byte offset of the window names (R40). -/
inductive PortReg where
  | ctrl | status | res | seqstate | cursor | fc | wcnt | base | waitlim | msglen
  | prog (k : Fin 256)
  | msgw (m : Fin 2048)
  | unmapped
  deriving DecidableEq, Repr

/-- The map of R40. -/
def portReg (offset : Nat) : PortReg :=
  match offset with
  | 0x000 => .ctrl
  | 0x004 => .status
  | 0x008 => .res
  | 0x00C => .seqstate
  | 0x010 => .cursor
  | 0x014 => .fc
  | 0x018 => .wcnt
  | 0x01C => .base
  | 0x020 => .waitlim
  | 0x024 => .msglen
  | _ =>
    if 0x400 ≤ offset ∧ offset < 0x800 then .prog (Fin.ofNat 256 ((offset - 0x400) / 4))
    else if 0x2000 ≤ offset ∧ offset < 0x4000 then .msgw (Fin.ofNat 2048 ((offset - 0x2000) / 4))
    else .unmapped

/-- An aligned 32-bit access inside the 16 KiB window (R40, R46 (1)). -/
def portAccessOk (offset width : Nat) : Bool := width = 4 && offset % 4 = 0 && offset < 0x4000

/-- The value a host read returns (R40 to R46); it has no side effect. -/
def State.portRead (s : State) : PortReg → Word
  | .ctrl => s.ctrlWord
  | .status => s.statusWord
  | .res => s.res
  | .seqstate => s.seqstateWord
  | .cursor => s.cursorWord
  | .fc => s.fc
  | .wcnt => s.wcnt
  | .base => s.base
  | .waitlim => s.waitlim
  | .msglen => unsignedResult s.msglen
  | .prog k => s.prog[k]
  | .msgw m => s.msg[m]
  | .unmapped => 0#32

/-- A start (R41): the start check, then run or `INIT` (60_exceptions.md R258). -/
def State.start (s : State) : State :=
  if s.startOk then { s with halted := false } else s.raise .init

/-- A configuration write takes effect only while `HALTED = 1` (R46 (3)). -/
def State.whileHalted (s : State) (t : State) : State := if s.halted then t else s

/-- A host write (R41, R44 to R46): reserved bits, read-only registers and unmapped offsets ignore it. -/
def State.portWrite (s : State) (r : PortReg) (w : Word) : State :=
  match r with
  | .ctrl => if w.getLsbD 0 ∧ s.halted ∧ ¬ s.fault then s.start else s
  | .base => s.whileHalted { s with base := w }
  | .waitlim => s.whileHalted { s with waitlim := w }
  | .msglen => s.whileHalted { s with msglen := w.setWidth 16 }
  | .prog k => s.whileHalted { s with prog := s.prog.set k w }
  | .msgw m => s.whileHalted { s with msg := s.msg.set m w }
  | .status | .res | .seqstate | .cursor | .fc | .wcnt | .unmapped => s

/-- A host read turn: the value goes to the host. -/
def hostReadTurn (offset width : Nat) (s : State) : Host.Outcome State Fault Refusal :=
  if portAccessOk offset width then
    .next { s with hostSeen := s.hostSeen ++ [s.portRead (portReg offset)] }
  else .refused .hostAccess

/-- A host write turn. -/
def hostWriteTurn (offset width : Nat) (w : Word) (s : State) : Host.Outcome State Fault Refusal :=
  if portAccessOk offset width then .next (s.portWrite (portReg offset) w)
  else .refused .hostAccess

end Sys2Proof.Machine
end

