-- ==== Sys2Proof/Machine/Platform.lean ====
section
/-! DEFINITION. The platform's actions before a start (70_reset_and_hazards.md R282 step 2, R284;
20_memory.md R69). -/

namespace Sys2Proof.Machine

/-- The constraint of 00_scope.md R9 on `BASE_VALUE` and `REGION_BYTES`; the region lies in the 32-bit
space. -/
def launchOk (base : Word) (bytes : Nat) (proto : Protocol) : Bool :=
  base ≠ 0#32 && base.toNat % 4 = 0 && base.toNat + Config.regionSpan ≤ 2 ^ 32
    && base.toNat + bytes ≤ 2 ^ 32
    && (match proto with
        | .flag => Config.blockBytes ≤ bytes
        | .addr => Config.regionSpan ≤ bytes)

/-- The region is mapped and the launch premises are established (R282 step 2, R284): `CmdReg = 0`, bit 8
of the flag word clear, the consumer idle. No other byte of memory changes. -/
def State.launch (s : State) (base : Word) (bytes : Nat) (proto : Protocol) : State :=
  { s with
    mem := s.mem.writeHalf base (s.halfAt base &&& 0xFEFF#16)
    cmdReg := 0#32, mapBase := base, mapBytes := bytes
    cproto := proto, consumer := .idle, buf := [] }

/-- A launch turn; the platform acts before a start only (20_memory.md R69). -/
def launchTurn (base : Word) (bytes : Nat) (proto : Protocol) (s : State) :
    Host.Outcome State Fault Refusal :=
  if launchOk base bytes proto then .next (if s.halted then s.launch base bytes proto else s)
  else .refused .launchParameters

/-- The platform writes one byte of the data space before a start (20_memory.md R69). -/
def State.platformWrite (s : State) (addr : Word) (b : Byte) : State :=
  if s.halted then { s with mem := s.mem.write addr.toNat b } else s

end Sys2Proof.Machine
end

