-- ==== Sys2Proof/Machine/Turns.lean ====
section
/-! DEFINITION. What a turn of each agent does, and which turn is next (00_scope.md R16). -/

namespace Sys2Proof.Machine

/-- The producer's step (10_state.md R23, 30_encoding.md R96): fetch, decode, execute; an illegal word
raises `ILLEGAL_OP` (60_exceptions.md R251). While `HALTED = 1` there is none. -/
def producerTurn (s : State) : Host.Outcome State Fault Refusal :=
  if s.halted then .next s
  else
    match decode s.fetch with
    | .error _ => .next (s.raise .illegalOp)
    | .ok i => exec i s

/-- A turn. An agent that has no step passes: the state is unchanged. -/
def takeTurn (t : Turn) (s : State) : Host.Outcome State Fault Refusal :=
  match t with
  | .producer => producerTurn s
  | .drain k => .next (s.drain k)
  | .consumer keep15 => .next (s.consumerStep keep15)
  | .hostRead offset width => hostReadTurn offset width s
  | .hostWrite offset width w => hostWriteTurn offset width w s
  | .reset => .next s.blockReset
  | .launch base bytes proto => launchTurn base bytes proto s
  | .platformWrite addr b => .next (s.platformWrite addr b)

/-- The next turn: the first of `turns`; when none is left, the drain's on the oldest entry while a store
is pending, else the producer's (log entry 1). `turns` is finite and every default turn with a store pending
is the drain's, so the drain is weakly fair, as 20_memory.md R75 requires: in no run does the store buffer
stay non-empty forever. -/
def State.nextTurn (s : State) : Turn :=
  match s.turns with
  | t :: _ => t
  | [] => if s.sbEmpty then .producer else .drain 0

/-- The state in which the next turn is taken: its entry of `turns` is used up. -/
def State.afterTurn (s : State) : State := { s with turns := s.turns.tail }

/-- What a program needs in place to be fetched at `pc` (10_state.md R23, R238): the word in the program
store and a producer that a start has released. -/
def State.loadWord (s : State) (w : Word) : State :=
  { s with prog := s.prog.set s.pc.toNat w s.pc.isLt, halted := false }

/-- A start passes only with a legal configuration (60_exceptions.md R258): where `s` has none, the
region's base as the platform mapped it and a message of one bit. -/
def State.configured (s : State) : State :=
  if s.startOk then s else { s with base := s.mapBase, msglen := 1#16 }

end Sys2Proof.Machine
end

