-- ==== Sys2Proof/Machine/Step.lean ====
section
/-! DEFINITION. The step of the machine (00_scope.md R16), and the state in which a given word is the
next instruction. -/

namespace Sys2Proof.Machine

/-- One step: the agent whose turn it is takes it. -/
def step (s : State) : Host.Outcome State Fault Refusal := takeTurn s.nextTurn s.afterTurn

/-- `s` with the operation word whose bits are `w` in the program-store entry at `pc`, a configuration
that a start accepts, the producer released, and the next turn the producer's. Log entry 4. -/
def State.withFetchWord (s : State) (nbits w : Nat) : State :=
  { (s.loadWord (BitVec.ofNat 32 (w % 2 ^ nbits))).configured with turns := .producer :: s.turns }

end Sys2Proof.Machine
end

