-- ==== Sys2Proof/WellFormed.lean ====
section
/-! DEFINITION. What is well formed: an operation word (30_encoding.md R91, R95, R97, R100), judged
from the table of formats alone, and an assembler operation (R101). An `Instr` is well formed by its
type: each operand is as wide as its field. -/

namespace Sys2Proof

/-- The five formats of R91. -/
inductive Format where
  | N | T | L | X | G
  deriving DecidableEq, Repr

/-- The format of each opcode, the map of R95; opcode 0 has none. -/
def formatOf (op : BitVec 4) : Option Format :=
  match op.toNat with
  | 0 => none
  | 9 => some .T
  | 10 => some .T
  | 11 => some .L
  | 12 => some .X
  | 13 => some .G
  | 14 => some .G
  | _ => some .N

/-- The reserved bits of a format: the bits its pattern of R91 marks `0`. -/
def Format.reservedMask : Format → Word
  | .N => 0xFFFFFFF0#32
  | .T => 0xFFFFF000#32
  | .L => 0xFFFFF800#32
  | .X => 0xFFFFF000#32
  | .G => 0xF0000000#32

/-- A word is legal when its opcode has a format and no reserved bit of that format is 1 (R97, R100). -/
def wellFormedWord (w : Word) : Bool :=
  match formatOf (w.extractLsb' 0 4) with
  | none => false
  | some f => w &&& f.reservedMask == 0#32

/-- A number that an assembler accepts for `TGT`; a label is judged when it is resolved. -/
def AsmTarget.wellFormed : AsmTarget → Bool
  | .index n => n < 256
  | .label _ => true

/-- "An assembler refuses an operand outside its field's range. It accepts `PJ` values `313 .. 511`"
(R101). -/
def AsmOp.wellFormed : AsmOp → Bool
  | .loopj t => t.wellFormed
  | .jmp t => t.wellFormed
  | .lut idx => idx < 128
  | .shuf x => x < 256
  | .dds v j i => v < 8 && j < 512 && i < 4096
  | .gen v j i => v < 8 && j < 512 && i < 4096
  | .seq | .waitf | .fillf | .postf | .filla | .waita | .posta | .fence | .halt => true
  | .sendf | .senda => true

end Sys2Proof
end

