-- ==== Sys2Proof/Machine/Assembler.lean ====
section
/-! DEFINITION. The assembler of 30_encoding.md R101 and R102: source text (a list of characters) to
operation words. What the spec leaves open in it is in log entry 13. -/

namespace Sys2Proof.Machine

/-- Why a source text is refused. -/
inductive AsmError where
  /-- An operand outside its field's range (R101). -/
  | operandRange
  /-- A mnemonic that is neither in R95 nor a pseudo-instruction of R102. -/
  | unknownMnemonic
  /-- Operands that are not those of the format: too few, too many, or not a number or label. -/
  | badOperands
  /-- A `TGT` label that labels no line. -/
  | unknownLabel
  /-- A label that labels two lines. -/
  | duplicateLabel
  /-- A label on a line with no operation. -/
  | labelWithoutOperation
  /-- More operations than the program store has entries. -/
  | programTooLong
  deriving DecidableEq, Repr

/-! ### Lines to words -/

/-- How many operations a line expands to: a pseudo-instruction is four (R102). -/
def asmSize : AsmOp → Nat
  | .sendf | .senda => 4
  | _ => 1

/-- The labels of a program with the program-store index each stands for. -/
def asmLabels : Nat → List AsmLine → List (List Char × Nat)
  | _, [] => []
  | k, l :: ls =>
    match l.label with
    | none => asmLabels (k + asmSize l.op) ls
    | some name => (name, k) :: asmLabels (k + asmSize l.op) ls

/-- The index a target stands for (R101). -/
def asmTarget (labels : List (List Char × Nat)) : AsmTarget → Except AsmError (BitVec 8)
  | .index n => .ok (BitVec.ofNat 8 n)
  | .label name =>
    match labels.find? (fun p => p.1 = name) with
    | none => .error .unknownLabel
    | some p => .ok (BitVec.ofNat 8 p.2)

/-- The operations of one well-formed line (R95, R102). -/
def asmInstrs (labels : List (List Char × Nat)) : AsmOp → Except AsmError (List Instr)
  | .seq => .ok [.seq]
  | .waitf => .ok [.waitf]
  | .fillf => .ok [.fillf]
  | .postf => .ok [.postf]
  | .filla => .ok [.filla]
  | .waita => .ok [.waita]
  | .posta => .ok [.posta]
  | .fence => .ok [.fence]
  | .halt => .ok [.halt]
  | .loopj t => (asmTarget labels t).map fun a => [.loopj a]
  | .jmp t => (asmTarget labels t).map fun a => [.jmp a]
  | .lut idx => .ok [.lut (BitVec.ofNat 7 idx)]
  | .shuf x => .ok [.shuf (BitVec.ofNat 8 x)]
  | .dds v j i => .ok [.dds (BitVec.ofNat 3 v) (BitVec.ofNat 9 j) (BitVec.ofNat 12 i)]
  | .gen v j i => .ok [.gen (BitVec.ofNat 3 v) (BitVec.ofNat 9 j) (BitVec.ofNat 12 i)]
  | .sendf => .ok [.waitf, .fillf, .fence, .postf]
  | .senda => .ok [.filla, .waita, .fence, .posta]

/-- The words of the lines, each refused where an operand is out of range (R101). -/
def asmWords (labels : List (List Char × Nat)) : List AsmLine → Except AsmError (List Word)
  | [] => .ok []
  | l :: ls =>
    if l.op.wellFormed then
      match asmInstrs labels l.op, asmWords labels ls with
      | .ok is, .ok ws => .ok (is.map encode ++ ws)
      | .error e, _ => .error e
      | _, .error e => .error e
    else .error .operandRange

/-- Assemble lines (R101, R102). -/
def assembleLines (ls : List AsmLine) : Except AsmError (List Word) :=
  let labels := asmLabels 0 ls
  if (ls.map fun l => asmSize l.op).sum > 256 then .error .programTooLong
  else if (labels.map Prod.fst).Nodup then asmWords labels ls
  else .error .duplicateLabel

/-! ### Text to lines -/

/-- The pieces of a text between occurrences of a separator. -/
def splitAtChar (c : Char) : List Char → List (List Char)
  | [] => [[]]
  | x :: xs =>
    if x = c then [] :: splitAtChar c xs
    else
      match splitAtChar c xs with
      | [] => [[x]]
      | p :: ps => (x :: p) :: ps

/-- A blank inside a line. -/
def isBlank (c : Char) : Bool := c = ' ' || c = '\t' || c = '\r'

/-- A text without the blanks at its two ends. -/
def trimBlanks (cs : List Char) : List Char :=
  ((cs.dropWhile isBlank).reverse.dropWhile isBlank).reverse

/-- The value of a digit in a base up to 16. -/
def digitValue (base : Nat) (c : Char) : Option Nat :=
  let n := c.toNat
  let d := if 48 ≤ n ∧ n < 58 then n - 48
    else if 97 ≤ n ∧ n < 103 then n - 87
    else if 65 ≤ n ∧ n < 71 then n - 55
    else base
  if d < base then some d else none

/-- The number a text of digits denotes, from the value of the digits before it. -/
def digitsFrom (base : Nat) : Nat → List Char → Option Nat
  | acc, [] => some acc
  | acc, c :: cs =>
    match digitValue base c with
    | none => none
    | some d => digitsFrom base (base * acc + d) cs

/-- "A decimal or `0x` hexadecimal number" (R101). -/
def parseNumber : List Char → Option Nat
  | [] => none
  | '0' :: 'x' :: c :: cs => digitsFrom 16 0 (c :: cs)
  | c :: cs => digitsFrom 10 0 (c :: cs)

/-- A `TGT` operand: a number, else a label. -/
def parseTarget (cs : List Char) : Option AsmTarget :=
  match parseNumber cs with
  | some n => some (.index n)
  | none => if cs.isEmpty || cs.any isBlank then none else some (.label cs)

/-- The operation of a mnemonic without operands. -/
def bareOp (name : List Char) : Option AsmOp :=
  if name = ['S', 'E', 'Q'] then some .seq
  else if name = ['W', 'A', 'I', 'T', 'F'] then some .waitf
  else if name = ['F', 'I', 'L', 'L', 'F'] then some .fillf
  else if name = ['P', 'O', 'S', 'T', 'F'] then some .postf
  else if name = ['F', 'I', 'L', 'L', 'A'] then some .filla
  else if name = ['W', 'A', 'I', 'T', 'A'] then some .waita
  else if name = ['P', 'O', 'S', 'T', 'A'] then some .posta
  else if name = ['F', 'E', 'N', 'C', 'E'] then some .fence
  else if name = ['H', 'A', 'L', 'T'] then some .halt
  else if name = ['S', 'E', 'N', 'D', 'F'] then some .sendf
  else if name = ['S', 'E', 'N', 'D', 'A'] then some .senda
  else none

/-- The operation of a mnemonic of format T. -/
def targetOp (name : List Char) : Option (AsmTarget → AsmOp) :=
  if name = ['L', 'O', 'O', 'P', 'J'] then some .loopj
  else if name = ['J', 'M', 'P'] then some .jmp
  else none

/-- The operation of a mnemonic of format L or X. -/
def numberOp (name : List Char) : Option (Nat → AsmOp) :=
  if name = ['L', 'U', 'T'] then some .lut
  else if name = ['S', 'H', 'U', 'F'] then some .shuf
  else none

/-- The operation of a mnemonic of format G. -/
def tripleOp (name : List Char) : Option (Nat → Nat → Nat → AsmOp) :=
  if name = ['D', 'D', 'S'] then some .dds
  else if name = ['G', 'E', 'N'] then some .gen
  else none

/-- "A mnemonic of rule R95, then its operands separated by commas" (R101). -/
def parseOp (name : List Char) (operands : List (List Char)) : Except AsmError AsmOp :=
  match bareOp name, targetOp name, numberOp name, tripleOp name, operands with
  | some op, _, _, _, [[]] => .ok op
  | _, some mk, _, _, [t] => ((parseTarget t).map mk).elim (.error .badOperands) .ok
  | _, _, some mk, _, [n] => ((parseNumber n).map mk).elim (.error .badOperands) .ok
  | _, _, _, some mk, [v, j, i] =>
    match parseNumber v, parseNumber j, parseNumber i with
    | some v, some j, some i => .ok (mk v j i)
    | _, _, _ => .error .badOperands
  | none, none, none, none, _ => .error .unknownMnemonic
  | _, _, _, _, _ => .error .badOperands

/-- One source line (R101): `none` for a line with nothing but blanks and a comment. A label's name is, by
the model's choice of log entry 13, whatever stands before the first `:`, without the blanks at its two
ends: also nothing, a text with blanks inside, or one that reads as a number, which no operand can name. -/
def parseLine (cs : List Char) : Except AsmError (Option AsmLine) :=
  let code := cs.takeWhile (fun c => c ≠ ';')
  let labelled := code.any (fun c => c = ':')
  let label := trimBlanks (code.takeWhile (fun c => c ≠ ':'))
  let body := trimBlanks (if labelled then (code.dropWhile (fun c => c ≠ ':')).tail else code)
  let name := body.takeWhile (fun c => !isBlank c)
  let operands := (splitAtChar ',' (body.dropWhile (fun c => !isBlank c))).map trimBlanks
  if body.isEmpty then if labelled then .error .labelWithoutOperation else .ok none
  else (parseOp name operands).map fun op => some ⟨if labelled then some label else none, op⟩

/-- The lines of a source text that hold an operation. -/
def parseLines : List (List Char) → Except AsmError (List AsmLine)
  | [] => .ok []
  | l :: ls =>
    match parseLine l, parseLines ls with
    | .ok none, r => r
    | .ok (some a), .ok as => .ok (a :: as)
    | .error e, _ => .error e
    | _, .error e => .error e

/-- Assemble a source text, one operation a line (R101). -/
def assemble (src : List Char) : Except AsmError (List Word) :=
  match parseLines (splitAtChar '\n' src) with
  | .ok ls => assembleLines ls
  | .error e => .error e

end Sys2Proof.Machine
end

