-- ==== Sys2Proof/Safety.lean ====
section
/-! DEFINITION. The terms claims use: the invariant of the machine, the end of a run and a fault state,
and the relation that leaves the block's configuration alone. -/

namespace Sys2Proof.Machine

/-- A run has ended (45_control.md R237): `HALT` was executed and every store is visible. -/
def State.ended (s : State) : Bool := s.halted && !s.fault && s.sbEmpty

/-- The producer has a step: it is not halted (10_state.md R23) and not held by a `FENCE`
(20_memory.md R76). -/
def State.producerReady (s : State) : Bool :=
  !s.halted && !(decode s.fetch = .ok .fence && !s.sbEmpty)

/-- A pending store as the producer issues it: a data store is 16-bit aligned (20_memory.md R62) and
carries only sample and flag bits (42_shuffler.md R153, 44_exchange.md R187); a handoff is a nonzero
aligned address (20_memory.md R67, R68). -/
def PendingStore.issued : PendingStore → Bool
  | .data a v => a.toNat % 2 = 0 && v &&& 0x3E50#16 = 0#16
  | .cmd v => v ≠ 0#32 && v.toNat % 4 = 0

/-- The consumer has read as many words as it holds, and at most a block (44_exchange.md R214). -/
def State.consumerOk (s : State) : Bool :=
  match s.consumer with
  | .idle => true
  | .reading _ k => k ≤ Config.passLen && s.buf.length = k

/-- What holds at reset and is kept by every step. -/
structure State.Inv (s : State) : Prop where
  /-- The data space keeps its canonical form. -/
  memory : s.mem.wf
  /-- `J` is in `[0, 313]` (10_state.md R25). -/
  pass : s.j.toNat ≤ Config.passes
  /-- The phase of the selected variant is the scheduler's (10_state.md R24). -/
  variant : variantPhase s.v = s.phase
  /-- A running block has a configuration that passed the start check (60_exceptions.md R258). -/
  running : s.halted = false → s.startOk = true
  /-- A fault halts the producer (60_exceptions.md R254). -/
  stopped : s.fault = true → s.halted = true
  /-- A fault has a cause code of R250, and no fault leaves `CAUSE` and `FAULTPC` at 0. -/
  recorded : if s.fault then 1 ≤ s.cause.toNat ∧ s.cause.toNat ≤ 4 else s.cause = 0#4 ∧ s.faultpc = 0#8
  /-- `WAITING` is set only in a running producer that has counted a poll (10_state.md R28, R30). -/
  polling : s.waiting = true → s.halted = false ∧ s.wcnt ≠ 0#32
  /-- Every pending store is one the producer issues. -/
  pending : ∀ e ∈ s.sb, e.issued = true
  /-- The consumer's count agrees with its buffer. -/
  reading : s.consumerOk = true
  /-- Every emitted block has 4096 words (44_exchange.md R220). -/
  output : ∀ b ∈ s.emitted, b.length = Config.passLen

/-- The scheduler's registers and the variant they select (10_state.md R24, R29). -/
def State.sameScheduler (s t : State) : Prop :=
  t.offset = s.offset ∧ t.old = s.old ∧ t.cur = s.cur ∧ t.new = s.new ∧ t.phase = s.phase ∧ t.v = s.v

/-- The configuration, the program and the message are the same (10_state.md R46 (3)). -/
def State.sameConfig (s t : State) : Prop :=
  t.base = s.base ∧ t.waitlim = s.waitlim ∧ t.msglen = s.msglen ∧ t.prog = s.prog ∧ t.msg = s.msg

/-- Shared memory reads the same, byte by byte, and so does the command register (20_memory.md R69). -/
def State.sameShared (s t : State) : Prop :=
  (∀ a : Nat, t.byteAt a = s.byteAt a) ∧ t.cmdReg = s.cmdReg

/-- A fetched word of opcode `op` with a 1 among its bits `w[31:lo]` raises `ILLEGAL_OP`, and the
operation does nothing else (30_encoding.md R97, 60_exceptions.md R251). -/
def ReservedBitsRaise (op : BitVec 4) (lo : Nat) : Prop :=
  ∀ s : State, s.halted = false → opField s.fetch = op → s.fetch.toNat / 2 ^ lo ≠ 0 →
    producerTurn s = .next (s.raise .illegalOp)

/-- The state after the fault entry for a cause code (60_exceptions.md R254), field by field. -/
def State.faulted (s : State) (code : BitVec 4) : State :=
  { s with fault := true, halted := true, cause := code, faultpc := s.pc, waiting := false }

end Sys2Proof.Machine
end

