-- ==== Sys2Proof/Certificates/Slice0/Obligations.lean ====
section
/-! DEFINITION. The statements for the provers. Each docstring names the rule of spec/ that it states, or
the sections it rests on. A next state is written out as the state before with the fields that change, so
that a statement also says what stays: every other register, the store buffer, shared memory. -/

open Sys2Proof Sys2Proof.Machine

/-! ### Encoding -/

/-- 30_encoding.md, sections 1 to 3: decoding the word of any operation, with any operands, gives it
back. -/
def Obligations.DecodeEncodeRoundTrip : Prop :=
  ∀ i : Instr, decode (encode i) = .ok i

/-- R97: a 1 in a reserved bit of the opcode's format makes a word illegal, and every legal word has
exactly one spelling. -/
def Obligations.ReservedBitsLeaveOneSpelling : Prop :=
  ∀ w : Word,
    (∀ f, formatOf (opField w) = some f → w &&& f.reservedMask ≠ 0#32 →
      decode w = .error .reservedBitSet)
    ∧ (∀ i, decode w = .ok i → encode i = w)

/-- 30_encoding.md, sections 3 and 4: a word decodes to an operation exactly when the table of formats
calls it legal, and is rejected otherwise. -/
def Obligations.DecodeAcceptsExactlyLegalWords : Prop :=
  ∀ w : Word, (wellFormedWord w = true ↔ ∃ i, decode w = .ok i)
    ∧ (wellFormedWord w = false ↔ ∃ e, decode w = .error e)

/-- R103: the encoding examples, word by word, and what the out-of-range one does when executed. -/
def Obligations.EncodingExamplesDecode : Prop :=
  decode 0x00000001#32 = .ok .seq ∧ decode 0x00000008#32 = .ok .fence
    ∧ decode 0x0000000F#32 = .ok .halt ∧ decode 0x00000019#32 = .ok (.loopj 1#8)
    ∧ decode 0x0000000A#32 = .ok (.jmp 0#8) ∧ decode 0x0000020B#32 = .ok (.lut 32#7)
    ∧ decode 0x00000FFC#32 = .ok (.shuf 0xFF#8)
    ∧ decode 0x0000060E#32 = .ok (.gen 0#3 0#9 12#12)
    ∧ decode 0x09C7FFCD#32 = .ok (.dds 4#3 312#9 4095#12)
    ∧ decode 0x0190026E#32 = .ok (.gen 6#3 50#9 4#12)
    ∧ decode 0x09C8000E#32 = .ok (.gen 0#3 313#9 0#12)
    ∧ (∀ s : State, exec (.gen 0#3 313#9 0#12) s = .next (s.raise .argRange))
    ∧ decode 0x00000010#32 = .error .opcodeZero
    ∧ decode 0x00000011#32 = .error .reservedBitSet

/-- 30_encoding.md, section 5 (R101 to R103). A one-line program of each mnemonic and pseudo-instruction
assembles to its words, with any operands in their fields' ranges, and is refused with an operand outside.
In a program that assembles, every line is in range and stands as its words at the index the lines before it
reach, and its label stands for that index; a program of lines in range, whose targets are labelled, whose
labels differ and that fits the program store assembles. In the source text a number is read in decimal or
hexadecimal, a comment does not matter, a label stands before its line's operation, a separator ends a line
or an operand, and a mnemonic with its operands makes its operation, a target that is no number being a
label. The examples of R103, and a text with a label, a comment and a pseudo-instruction, assemble to
their words. That labels must differ, that a program must
fit, and what a label with no operation does are the model's choice of log entry 13. -/
def Obligations.AssemblerFollowsTheSyntax : Prop :=
  (∀ tgt : BitVec 8,
      assembleLines [⟨none, .loopj (.index tgt.toNat)⟩] = .ok [encode (.loopj tgt)]
      ∧ assembleLines [⟨none, .jmp (.index tgt.toNat)⟩] = .ok [encode (.jmp tgt)])
  ∧ (∀ idx : BitVec 7, assembleLines [⟨none, .lut idx.toNat⟩] = .ok [encode (.lut idx)])
  ∧ (∀ x : BitVec 8, assembleLines [⟨none, .shuf x.toNat⟩] = .ok [encode (.shuf x)])
  ∧ (∀ (v : BitVec 3) (pj : BitVec 9) (si : BitVec 12),
      assembleLines [⟨none, .dds v.toNat pj.toNat si.toNat⟩] = .ok [encode (.dds v pj si)]
      ∧ assembleLines [⟨none, .gen v.toNat pj.toNat si.toNat⟩] = .ok [encode (.gen v pj si)])
  ∧ assembleLines [⟨none, .seq⟩, ⟨none, .waitf⟩, ⟨none, .fillf⟩, ⟨none, .postf⟩, ⟨none, .filla⟩,
      ⟨none, .waita⟩, ⟨none, .posta⟩, ⟨none, .fence⟩, ⟨none, .halt⟩]
      = .ok [0x00000001#32, 0x00000002#32, 0x00000003#32, 0x00000004#32, 0x00000005#32,
        0x00000006#32, 0x00000007#32, 0x00000008#32, 0x0000000F#32]
  ∧ assembleLines [⟨none, .sendf⟩] = .ok [0x00000002#32, 0x00000003#32, 0x00000008#32, 0x00000004#32]
  ∧ assembleLines [⟨none, .senda⟩] = .ok [0x00000005#32, 0x00000006#32, 0x00000008#32, 0x00000007#32]
  ∧ (∀ l : AsmLine, l.op.wellFormed = false → assembleLines [l] = .error .operandRange)
  ∧ (∀ (ls : List AsmLine) (ws : List Word), assembleLines ls = .ok ws →
      ∀ (pre : List AsmLine) (l : AsmLine) (post : List AsmLine), ls = pre ++ l :: post →
        l.op.wellFormed = true
        ∧ (∃ is, asmInstrs (asmLabels 0 ls) l.op = .ok is ∧ is.length = asmSize l.op
          ∧ (ws.drop (pre.map fun x => asmSize x.op).sum).take (asmSize l.op) = is.map encode)
        ∧ ∀ name, l.label = some name → asmTarget (asmLabels 0 ls) (.label name)
          = .ok (BitVec.ofNat 8 (pre.map fun x => asmSize x.op).sum))
  ∧ (∀ ls : List AsmLine, (∀ l ∈ ls, l.op.wellFormed = true) →
      (∀ l ∈ ls, ∀ name, l.op = .loopj (.label name) ∨ l.op = .jmp (.label name) →
        ∃ l' ∈ ls, l'.label = some name) →
      (ls.filterMap AsmLine.label).Nodup → (ls.map fun l => asmSize l.op).sum ≤ 256 →
      ∃ ws, assembleLines ls = .ok ws ∧ ws.length = (ls.map fun l => asmSize l.op).sum)
  ∧ (∀ n : Nat, parseNumber (Nat.toDigits 10 n) = some n
      ∧ parseNumber ('0' :: 'x' :: Nat.toDigits 16 n) = some n)
  ∧ (∀ code comment : List Char, ';' ∉ code → parseLine (code ++ ';' :: comment) = parseLine code)
  ∧ (∀ name body : List Char, ':' ∉ name → ';' ∉ name → ':' ∉ body → ';' ∉ body →
      (∀ l, parseLine body = .ok (some l) →
        parseLine (name ++ ':' :: body) = .ok (some ⟨some (trimBlanks name), l.op⟩))
      ∧ (parseLine body = .ok none →
        parseLine (name ++ ':' :: body) = .error .labelWithoutOperation))
  ∧ (∀ (c : Char) (piece rest : List Char), c ∉ piece →
      splitAtChar c (piece ++ c :: rest) = piece :: splitAtChar c rest)
  ∧ parseOp ['S', 'E', 'Q'] [[]] = .ok .seq
  ∧ parseOp ['W', 'A', 'I', 'T', 'F'] [[]] = .ok .waitf
  ∧ parseOp ['F', 'I', 'L', 'L', 'F'] [[]] = .ok .fillf
  ∧ parseOp ['P', 'O', 'S', 'T', 'F'] [[]] = .ok .postf
  ∧ parseOp ['F', 'I', 'L', 'L', 'A'] [[]] = .ok .filla
  ∧ parseOp ['W', 'A', 'I', 'T', 'A'] [[]] = .ok .waita
  ∧ parseOp ['P', 'O', 'S', 'T', 'A'] [[]] = .ok .posta
  ∧ parseOp ['F', 'E', 'N', 'C', 'E'] [[]] = .ok .fence
  ∧ parseOp ['H', 'A', 'L', 'T'] [[]] = .ok .halt
  ∧ parseOp ['S', 'E', 'N', 'D', 'F'] [[]] = .ok .sendf
  ∧ parseOp ['S', 'E', 'N', 'D', 'A'] [[]] = .ok .senda
  ∧ (∀ (a : List Char) (x : Nat), parseNumber a = some x →
      parseOp ['L', 'O', 'O', 'P', 'J'] [a] = .ok (.loopj (.index x))
      ∧ parseOp ['J', 'M', 'P'] [a] = .ok (.jmp (.index x))
      ∧ parseOp ['L', 'U', 'T'] [a] = .ok (.lut x) ∧ parseOp ['S', 'H', 'U', 'F'] [a] = .ok (.shuf x))
  ∧ (∀ name : List Char, parseNumber name = none → name ≠ [] → (∀ c ∈ name, isBlank c = false) →
      parseOp ['L', 'O', 'O', 'P', 'J'] [name] = .ok (.loopj (.label name))
      ∧ parseOp ['J', 'M', 'P'] [name] = .ok (.jmp (.label name)))
  ∧ (∀ (a b c : List Char) (x y z : Nat), parseNumber a = some x → parseNumber b = some y →
      parseNumber c = some z →
      parseOp ['D', 'D', 'S'] [a, b, c] = .ok (.dds x y z) ∧ parseOp ['G', 'E', 'N'] [a, b, c] = .ok (.gen x y z))
  ∧ assemble ['S', 'E', 'Q'] = .ok [0x00000001#32]
  ∧ assemble ['F', 'E', 'N', 'C', 'E'] = .ok [0x00000008#32]
  ∧ assemble ['H', 'A', 'L', 'T'] = .ok [0x0000000F#32]
  ∧ assemble ['L', 'O', 'O', 'P', 'J', ' ', '1'] = .ok [0x00000019#32]
  ∧ assemble ['J', 'M', 'P', ' ', '0'] = .ok [0x0000000A#32]
  ∧ assemble ['L', 'U', 'T', ' ', '3', '2'] = .ok [0x0000020B#32]
  ∧ assemble ['S', 'H', 'U', 'F', ' ', '0', 'x', 'F', 'F'] = .ok [0x00000FFC#32]
  ∧ assemble ['G', 'E', 'N', ' ', '0', ',', ' ', '0', ',', ' ', '1', '2'] = .ok [0x0000060E#32]
  ∧ assemble ['D', 'D', 'S', ' ', '4', ',', ' ', '3', '1', '2', ',', ' ', '4', '0', '9', '5']
      = .ok [0x09C7FFCD#32]
  ∧ assemble ['G', 'E', 'N', ' ', '6', ',', ' ', '5', '0', ',', ' ', '4'] = .ok [0x0190026E#32]
  ∧ assemble ['G', 'E', 'N', ' ', '0', ',', ' ', '3', '1', '3', ',', ' ', '0'] = .ok [0x09C8000E#32]
  ∧ assemble (['S', 'E', 'Q', '\n', 'a', ':', ' ', 'S', 'E', 'N', 'D', 'A', ' ', ';', 'x', '\n'] ++
      ['L', 'O', 'O', 'P', 'J', ' ', 'a', '\n', 'J', 'M', 'P', ' ', '0'])
      = .ok [0x00000001#32, 0x00000005#32, 0x00000006#32, 0x00000008#32, 0x00000007#32,
        0x00000019#32, 0x0000000A#32]

/-! ### The step -/

/-- 10_state.md, section 2, and 30_encoding.md, section 3: in a running producer's turn a word that
decodes to `i` makes the step `exec i` on the state with that turn used up. The turn is the producer's
when `turns` says so, and, by the model's choice of log entry 1, when `turns` is empty and no store is
pending. -/
def Obligations.StepRunsDecodedInstruction : Prop :=
  ∀ (s : State) (i : Instr), s.halted = false → decode s.fetch = .ok i →
    (∀ ts, s.turns = .producer :: ts → step s = exec i { s with turns := ts })
    ∧ (s.turns = [] → s.sb = [] → step s = exec i s)

/-- R251: a fetched word that decodes to no operation raises `ILLEGAL_OP`, and the operation does nothing
else; an entry `0x00000000` is such a word. -/
def Obligations.IllegalWordRaisesIllegalOp : Prop :=
  (∀ (s : State) (ts : List Turn), s.turns = .producer :: ts → s.halted = false →
    wellFormedWord s.fetch = false →
    step s = .next { s with
      turns := ts, fault := true, halted := true, cause := 1#4, faultpc := s.pc, waiting := false })
  ∧ wellFormedWord 0x00000000#32 = false

/-- 10_state.md, section 2 (R23): a producer that is not halted fetches `PROG[pc]` and executes it by the
rule its word selects; a halted one has no step, while the drain, the consumer and the host still take
theirs. That a turn of a halted producer passes, with only the turn used up, is the model's choice of log
entry 12. -/
def Obligations.ProducerFetchesUnlessHalted : Prop :=
  ∀ (s : State) (ts : List Turn),
    (s.turns = .producer :: ts → s.halted = false → ∀ i, decode s.prog[s.pc.toNat] = .ok i →
      step s = exec i { s with turns := ts })
    ∧ (s.turns = .producer :: ts → s.halted = false → ∀ e, decode s.prog[s.pc.toNat] = .error e →
      step s = .next ({ s with turns := ts }.faulted 1#4))
    ∧ (s.turns = .producer :: ts → s.halted = true → step s = .next { s with turns := ts })
    ∧ (∀ k, s.turns = .drain k :: ts → step s = .next ({ s with turns := ts }.drain k))
    ∧ (∀ b, s.turns = .consumer b :: ts → step s = .next ({ s with turns := ts }.consumerStep b))
    ∧ (∀ off w, s.turns = .hostWrite off 4 w :: ts → off % 4 = 0 → off < 0x4000 →
      ∃ t, step s = .next t)

/-! ### The datapath operations -/

/-- R113: `LUT`. -/
def Obligations.LutWritesSineEntry : Prop :=
  (∀ (idx : BitVec 7) (s : State), exec (.lut idx) s = .next { s with
      res := BitVec.ofInt 32 (sine idx.toNat), pc := s.pc + 1#8, waiting := false })
  ∧ ReservedBitsRaise 0xB#4 11
  ∧ BitVec.ofInt 32 (sine 96) = 0xFFFFFC00#32 ∧ BitVec.ofInt 32 (sine 32) = 0x00000400#32
  ∧ sine 0 = 0 ∧ sine 64 = 0
  ∧ (∀ idx : BitVec 7, decode (BitVec.ofNat 32 (2 ^ 4 * idx.toNat + 0xB)) = .ok (.lut idx))
  ∧ decode 0x0000020B#32 = .ok (.lut 32#7)

/-- R154: `SHUF`. -/
def Obligations.ShufWritesShuffledSample : Prop :=
  (∀ (x : BitVec 8) (s : State), exec (.shuf x) s = .next { s with
      res := (shuffle x).setWidth 32, pc := s.pc + 1#8, waiting := false })
  ∧ ReservedBitsRaise 0xC#4 12
  ∧ shuffle 0x00#8 = 0#16 ∧ shuffle 0x01#8 = 0#16 ∧ shuffle 0xFF#8 = 0x40AF#16
  ∧ shuffle 0x7F#8 = 0x00AF#16 ∧ shuffle 0x80#8 = 0x4000#16
  ∧ (∀ x : BitVec 8, decode (BitVec.ofNat 32 (2 ^ 4 * x.toNat + 0xC)) = .ok (.shuf x))
  ∧ decode 0x00000FFC#32 = .ok (.shuf 0xFF#8)

/-- R133: `DDS`. The result is `Sample` itself, an integer in `[0, 255]`, on 32 bits. -/
def Obligations.DdsWritesClampedSample : Prop :=
  (∀ (v : BitVec 3) (pj : BitVec 9) (si : BitVec 12) (s : State),
    (pj.toNat < 313 → exec (.dds v pj si) s = .next { s with
      res := BitVec.ofInt 32
        (sample (v.getLsbD 2) (v.getLsbD 1) (v.getLsbD 0) pj.toNat si.toNat)
      pc := s.pc + 1#8, waiting := false })
    ∧ (313 ≤ pj.toNat → exec (.dds v pj si) s = .next (s.faulted 2#4)))
  ∧ ReservedBitsRaise 0xD#4 28
  ∧ sample false false false 0 4 = 0 ∧ unclamped false false false 0 4 = -1
  ∧ sample false false false 0 12 = 255 ∧ sample false true false 0 12 = 127
  ∧ sample true false false 312 4095 = 3
  ∧ (∀ (v : BitVec 3) (pj : BitVec 9) (si : BitVec 12),
      decode (BitVec.ofNat 32 (2 ^ 19 * pj.toNat + 2 ^ 7 * si.toNat + 2 ^ 4 * v.toNat + 0xD))
        = .ok (.dds v pj si))
  ∧ decode 0x09C7FFCD#32 = .ok (.dds 4#3 312#9 4095#12)

/-- R134: `GEN`. -/
def Obligations.GenWritesVariantWord : Prop :=
  (∀ (v : BitVec 3) (pj : BitVec 9) (si : BitVec 12) (s : State),
    (pj.toNat < 313 → exec (.gen v pj si) s = .next { s with
      res := (variantWord v pj.toNat si.toNat).setWidth 32, pc := s.pc + 1#8, waiting := false })
    ∧ (313 ≤ pj.toNat → exec (.gen v pj si) s = .next (s.faulted 2#4)))
  ∧ ReservedBitsRaise 0xE#4 28
  ∧ variantWord 0#3 0 4 = 0x0000#16 ∧ variantWord 0#3 0 12 = 0x40AF#16
  ∧ (∀ i < 4096, variantWord 2#3 0 i = 0x00AF#16)
  ∧ (∀ (v : BitVec 3) (pj : BitVec 9) (si : BitVec 12),
      decode (BitVec.ofNat 32 (2 ^ 19 * pj.toNat + 2 ^ 7 * si.toNat + 2 ^ 4 * v.toNat + 0xE))
        = .ok (.gen v pj si))
  ∧ decode 0x0000060E#32 = .ok (.gen 0#3 0#9 12#12)

/-! ### The sine ROM, the modulator and the shuffler -/

/-- R112: the invariants of the sine table. -/
def Obligations.SineTableInvariants : Prop :=
  (∀ i < 64, sine (i + 64) = -sine i)
  ∧ (sine 0 = 0 ∧ sine 32 = 1024 ∧ sine 64 = 0 ∧ sine 96 = -1024)
  ∧ (∀ k < 128, -1024 ≤ sine k ∧ sine k ≤ 1024 ∧ (sine k = 1024 ↔ k = 32)
      ∧ (sine k = -1024 ↔ k = 96))
  ∧ (∀ k < 64, 1 ≤ k → sine (64 - k) = sine k) ∧ (∀ k < 33, sine (32 + k) = sine (32 - k))
  ∧ (∀ k < 32, sine k < sine (k + 1))

/-- R126: the bounds of the mixer, over every phase, pass and sample. -/
def Obligations.MixerBounds : Prop :=
  ∀ (phase : Bool) (j i : Nat), j < 313 → i < 4096 →
    (-1048580 ≤ mixNum phase j i ∧ mixNum phase j i ≤ 1048580)
    ∧ ((mixNum phase j i = 1048580 ∨ mixNum phase j i = -1048580) ↔
        sigIdx phase j i % 64 = 8 ∧ (i % 16 = 5 ∨ i % 16 = 13))
    ∧ (-1024 ≤ mix phase j i ∧ mix phase j i ≤ 1024)
    ∧ (carSin i * sigCos (sigIdx phase j i)).natAbs ≤ 2 ^ 21
    ∧ (carCos i * sigSin (sigIdx phase j i)).natAbs ≤ 2 ^ 21
    ∧ ∀ up down : Bool, (mix phase j i * mag up down j).natAbs ≤ 2 ^ 21

/-- R135, the envelope properties the source states, and 41_modulator.md, section 2 (step 4): the envelope
in its two windows and outside them, the passes where it is 0 and a bound inside a window. -/
def Obligations.EnvelopeWindows : Prop :=
  (∀ up : Bool, mag up true 312 = 0 ∧ mag up true 160 = 1024)
  ∧ (∀ j < 313, mag false false j = 1024)
  ∧ ∀ (up down : Bool) (j : Nat), j < 313 →
    (up = true → j < 128 → mag up down j = sine (j / 4) ∧ mag up down j ≤ 1023)
    ∧ (down = true → 186 ≤ j → mag up down j = sine ((312 - j) / 4) ∧ mag up down j ≤ 1023)
    ∧ ((up = false ∨ 128 ≤ j) → (down = false ∨ j < 186) → mag up down j = 1024)
    ∧ (mag up down j = 0 ↔ (up = true ∧ j ≤ 3) ∨ (down = true ∧ 309 ≤ j))

/-- 41_modulator.md, section 2 (step 5): the sample before the clamp is in `[-1, 255]`, below 0 exactly
where the scaled value is -1024, and the clamped sample differs from it only there. -/
def Obligations.ClampActsOnlyAtTheBottom : Prop :=
  ∀ (phase up down : Bool) (j i : Nat), j < 313 → i < 4096 →
    (-1 ≤ unclamped phase up down j i ∧ unclamped phase up down j i ≤ 255)
    ∧ (unclamped phase up down j i = -1 ↔ scaled phase up down j i = -1024)
    ∧ sample phase up down j i =
        if scaled phase up down j i = -1024 then 0 else unclamped phase up down j i

/-- 41_modulator.md, section 2 (steps 1, 2 and 4): within a pass the words repeat with period 16, and
passes that differ neither in `j / 16` nor in their envelope have the same words. -/
def Obligations.WordsRepeatWithTheCarrier : Prop :=
  ∀ (v : BitVec 3) (j j' i i' : Nat), i < 4096 → i' < 4096 → i % 16 = i' % 16 → j / 16 = j' / 16 →
    mag (v.getLsbD 1) (v.getLsbD 0) j = mag (v.getLsbD 1) (v.getLsbD 0) j' →
    variantWord v j i = variantWord v j' i'

/-- R151, the shuffle as a bit map, and R153: no shuffled word has bit 4, 6, 8 to 13 or 15 set, so no word
of a variant buffer has a status bit of the flag word. -/
def Obligations.ShuffleBitMap : Prop :=
  (∀ x : BitVec 8,
    (shuffle x).getLsbD 0 = x.getLsbD 1 ∧ (shuffle x).getLsbD 1 = x.getLsbD 2
    ∧ (shuffle x).getLsbD 2 = x.getLsbD 3 ∧ (shuffle x).getLsbD 3 = x.getLsbD 4
    ∧ (shuffle x).getLsbD 5 = x.getLsbD 5 ∧ (shuffle x).getLsbD 7 = x.getLsbD 6
    ∧ (shuffle x).getLsbD 14 = x.getLsbD 7
    ∧ ∀ k, k ≠ 0 → k ≠ 1 → k ≠ 2 → k ≠ 3 → k ≠ 5 → k ≠ 7 → k ≠ 14 →
        (shuffle x).getLsbD k = false)
  ∧ (∀ x : BitVec 8, shuffle x &&& 0xBF50#16 = 0#16)
  ∧ ∀ (v : BitVec 3) (j i : Nat),
      (variantWord v j i).getLsbD 8 = false ∧ (variantWord v j i).getLsbD 15 = false

/-- R152: the shuffle forgets bit 0 and nothing else; its image has 128 values, whose bitwise or is
`0x40AF`. -/
def Obligations.ShuffleInjectiveOnSevenBits : Prop :=
  (∀ x x' : BitVec 8, shuffle x = shuffle x' ↔ x >>> 1 = x' >>> 1)
  ∧ (((List.range 256).map fun n => shuffle (BitVec.ofNat 8 n)).dedup).length = 128
  ∧ ((List.range 256).map fun n => shuffle (BitVec.ofNat 8 n)).foldl (· ||| ·) 0#16 = 0x40AF#16

/-! ### The scheduler -/

/-- R162: the transition, with `SEQ`'s other two writes (`J` and `pc`). -/
def Obligations.SeqMakesOneTransition : Prop :=
  ∀ s : State, 1 ≤ s.msglen.toNat →
    ∃ offset : BitVec 16, offset.toNat = (s.offset.toNat + 1) % s.msglen.toNat
      ∧ exec .seq s = .next { s with
          offset := offset
          old := s.cur
          cur := s.new
          new := s.msgBit offset
          phase := if s.new = false then !s.phase else s.phase
          v := BitVec.ofNat 3
            (4 * (if s.new = false then !s.phase else s.phase).toNat
              + 2 * (!s.new).toNat + (!(s.msgBit offset)).toNat)
          j := 0#9, pc := s.pc + 1#8, waiting := false }

/-- 43_sequencer.md, section 3, and the model's choice of log entry 9: `SEQ` completes in every state.
With `MSGLEN = 0`, which no run reaches, `OFFSET` takes the free value and the rest follows from it;
otherwise `OFFSET` ends inside the message. -/
def Obligations.SeqCompletesInEveryState : Prop :=
  ∀ s : State, ∃ t, exec .seq s = .next t ∧ t.j = 0#9 ∧ t.pc = s.pc + 1#8
    ∧ t.old = s.cur ∧ t.cur = s.new ∧ t.new = s.msgBit t.offset
    ∧ (s.msglen = 0#16 → t.offset = Config.offsetModZero s.offset)
    ∧ (s.msglen ≠ 0#16 → t.offset.toNat < s.msglen.toNat)
    ∧ t.v.getLsbD 2 = t.phase ∧ t.v.getLsbD 1 = !t.cur ∧ t.v.getLsbD 0 = !t.new
    ∧ t.sb = s.sb ∧ s.sameShared t ∧ s.sameConfig t

/-! ### The buffer exchange -/

/-- R182: the outcome of a poll, `WAITF` on bit 8 of the flag word and `WAITA` on the command register. -/
def Obligations.PollOutcome : Prop :=
  ∀ (s : State) (i : Instr) (busy : Bool),
    (i = .waitf ∧ (∀ e ∈ s.sb, e.partlyCovers s.base = false)
        ∧ busy = (s.loadHalf s.base).getLsbD 8)
      ∨ (i = .waita ∧ busy = (s.loadCmd != 0#32)) →
    (busy = true → s.waitlim ≠ 0#32 → s.waitlim.toNat ≤ min (s.wcnt.toNat + 1) (2 ^ 32 - 1) →
      exec i s = .next (s.faulted 3#4))
    ∧ (busy = true →
        s.waitlim = 0#32 ∨ min (s.wcnt.toNat + 1) (2 ^ 32 - 1) < s.waitlim.toNat →
        exec i s = .next { s with
          wcnt := BitVec.ofNat 32 (min (s.wcnt.toNat + 1) (2 ^ 32 - 1)), waiting := true })
    ∧ (busy = false → exec i s = .next { s with
        wcnt := 0#32, waiting := false, pc := s.pc + 1#8 })

/-- 44_exchange.md, sections 2 and 3, and 20_memory.md, section 6: what the two polls load, `WAITF` and
`WAITA`. The youngest pending store to the location is forwarded; with none to it, whatever else is pending,
the load reads shared memory, little-endian; a partial overlap is refused (log entry 7). -/
def Obligations.PollsLoadForwardedOrShared : Prop :=
  ∀ s : State,
    ((∀ e ∈ s.sb, e.loc ≠ .data s.base ∧ e.partlyCovers s.base = false) →
      (s.loadHalf s.base).toNat
          = (s.byteAt s.base.toNat).toNat + 256 * (s.byteAt (s.base + 1#32).toNat).toNat
        ∧ (s.loadHalf s.base).getLsbD 8 = (s.byteAt (s.base + 1#32).toNat).getLsbD 0)
    ∧ ((∀ e ∈ s.sb, e.loc ≠ .cmd) → s.loadCmd = s.cmdReg)
    ∧ (∀ older younger h, s.sb = older ++ .data s.base h :: younger →
        (∀ e ∈ younger, e.loc ≠ .data s.base) → s.loadHalf s.base = h)
    ∧ (∀ older younger w, s.sb = older ++ .cmd w :: younger →
        (∀ e ∈ younger, e.loc ≠ .cmd) → s.loadCmd = w)
    ∧ ((∃ e ∈ s.sb, e.partlyCovers s.base = true) →
        exec .waitf s = .refused .partialOverlap)

/-- R186: `FILLF`. The mapped region is that of R66. -/
def Obligations.FillfIssuesTheBlock : Prop :=
  (∀ s : State,
    (s.j.toNat < 313 → s.mapped s.base.toNat 8192 = true → exec .fillf s = .next { s with
      sb := s.sb ++ (List.range 4096).map fun k =>
        .data (address (s.base.toNat + 2 * k)) (variantWord s.v s.j.toNat k)
      waiting := false, pc := s.pc + 1#8 })
    ∧ (313 ≤ s.j.toNat → exec .fillf s = .next (s.faulted 2#4)))
  ∧ ReservedBitsRaise 0x3#4 4
  ∧ (∀ (v : BitVec 3) (j : Nat),
      (variantWord v j 0).getLsbD 8 = false ∧ (variantWord v j 0).getLsbD 15 = false)
  ∧ (∀ k < 4096, variantWord 6#3 0 k = 0x00AF#16)

/-- R187: `POSTF`. The mapped region is that of R66. -/
def Obligations.PostfStoresTheFlaggedWord : Prop :=
  (∀ s : State,
    (s.j.toNat < 313 → s.mapped s.base.toNat 2 = true → exec .postf s = .next { s with
      sb := s.sb ++ [.data s.base (variantWord s.v s.j.toNat 0 ||| 0x8100#16)]
      waiting := false, pc := s.pc + 1#8 })
    ∧ (313 ≤ s.j.toNat → exec .postf s = .next (s.faulted 2#4)))
  ∧ ReservedBitsRaise 0x4#4 4
  ∧ (∀ (v : BitVec 3) (j k : Nat), k ≠ 8 → k ≠ 15 →
      (variantWord v j 0 ||| 0x8100#16).getLsbD k = (variantWord v j 0).getLsbD k)
  ∧ variantWord 6#3 0 0 ||| 0x8100#16 = 0x81AF#16

/-- R195: `FILLA`. The mapped region is that of R66. -/
def Obligations.FillaIssuesTheBlockInItsSlot : Prop :=
  (∀ s : State,
    (s.j.toNat < 313 → s.mapped (s.base.toNat + 8192 * (s.fc.toNat % 4)) 8192 = true →
      exec .filla s = .next { s with
        sb := s.sb ++ (List.range 4096).map fun k =>
          .data (address (s.base.toNat + 8192 * (s.fc.toNat % 4) + 2 * k))
            (variantWord s.v s.j.toNat k)
        waiting := false, pc := s.pc + 1#8 })
    ∧ (313 ≤ s.j.toNat → exec .filla s = .next (s.faulted 2#4)))
  ∧ ReservedBitsRaise 0x5#4 4
  ∧ 5 % 4 = 1 ∧ variantWord 0#3 0 0 = 0x00AF#16 ∧ variantWord 0#3 0 1 = 0x0087#16
  ∧ variantWord 0#3 0 2 = 0x0022#16

/-- R197: `POSTA`. Under a configuration that the start check accepts, the value is the slot's own
address and not 0. -/
def Obligations.PostaHandsOffTheSlot : Prop :=
  (∀ s : State, exec .posta s = .next { s with
      sb := s.sb ++ [.cmd (address (s.base.toNat + 8192 * (s.fc.toNat % 4)))]
      fc := s.fc + 1#32, waiting := false, pc := s.pc + 1#8 })
  ∧ ReservedBitsRaise 0x7#4 4
  ∧ (∀ s : State, s.startOk = true →
      (address (s.base.toNat + 8192 * (s.fc.toNat % 4))).toNat
          = s.base.toNat + 8192 * (s.fc.toNat % 4)
        ∧ address (s.base.toNat + 8192 * (s.fc.toNat % 4)) ≠ 0#32)
  ∧ 0xFFFFFFFF#32 + 1#32 = 0#32
  ∧ address ((0x20000000#32).toNat + 8192 * ((1#32).toNat % 4)) = 0x20002000#32

/-- 20_memory.md, section 6 (R76): while the store buffer is non-empty a `FENCE` holds, with no producer
step; when it is empty the `FENCE` completes. That a `FENCE` that holds answers the state it ran in, and that
its turn passes with only the turn used up, is the model's choice of log entry 12. -/
def Obligations.FenceHoldsUntilBufferEmpty : Prop :=
  ∀ s : State,
    (s.sb = [] → exec .fence s = .next { s with pc := s.pc + 1#8, waiting := false })
    ∧ (s.sb ≠ [] → exec .fence s = .next s
        ∧ (decode s.fetch = .ok .fence → s.producerReady = false
          ∧ ∀ ts, s.turns = .producer :: ts → step s = .next { s with turns := ts }))

/-- 20_memory.md, section 4: `FILLF`, `POSTF` and `FILLA` with a pass in range are stuck exactly when a
byte they would store lies outside the mapped region (R66) or the 32-bit space. That the whole block is
judged before its first store is the model's choice of log entry 6, and that an address beyond the top of
the 32-bit space is outside the one of log entry 10. -/
def Obligations.StoresOutsideTheRegionAreStuck : Prop :=
  ∀ s : State, s.j.toNat < 313 →
    (exec .fillf s = .fault .outsideRegion ↔
      ∃ a, s.base.toNat ≤ a ∧ a < s.base.toNat + 8192
        ∧ ¬ (s.mapBase.toNat ≤ a ∧ a < s.mapBase.toNat + s.mapBytes ∧ a < 2 ^ 32))
    ∧ (exec .postf s = .fault .outsideRegion ↔
      ∃ a, s.base.toNat ≤ a ∧ a < s.base.toNat + 2
        ∧ ¬ (s.mapBase.toNat ≤ a ∧ a < s.mapBase.toNat + s.mapBytes ∧ a < 2 ^ 32))
    ∧ (exec .filla s = .fault .outsideRegion ↔
      ∃ a, s.base.toNat + 8192 * (s.fc.toNat % 4) ≤ a
        ∧ a < s.base.toNat + 8192 * (s.fc.toNat % 4) + 8192
        ∧ ¬ (s.mapBase.toNat ≤ a ∧ a < s.mapBase.toNat + s.mapBytes ∧ a < 2 ^ 32))

/-! ### Control flow -/

/-- 45_control.md, section 1: `LOOPJ`. -/
def Obligations.LoopjAdvancesAndBranches : Prop :=
  (∀ (tgt : BitVec 8) (s : State),
    (s.j.toNat < 312 → exec (.loopj tgt) s = .next { s with
      j := s.j + 1#9, pc := tgt, waiting := false })
    ∧ (s.j.toNat = 312 → exec (.loopj tgt) s = .next { s with
      j := 313#9, pc := s.pc + 1#8, waiting := false })
    ∧ (313 ≤ s.j.toNat → exec (.loopj tgt) s = .next (s.faulted 2#4)))
  ∧ ReservedBitsRaise 0x9#4 12

/-- R231: `JMP`. A jump to its own index changes `WAITING` at most. -/
def Obligations.JmpSetsTheIndex : Prop :=
  (∀ (tgt : BitVec 8) (s : State), exec (.jmp tgt) s = .next { s with pc := tgt, waiting := false })
  ∧ ReservedBitsRaise 0xA#4 12
  ∧ (∀ s : State, exec (.jmp s.pc) s = .next { s with waiting := false })
  ∧ (∀ tgt : BitVec 8, decode (BitVec.ofNat 32 (2 ^ 4 * tgt.toNat + 0xA)) = .ok (.jmp tgt))
  ∧ decode 0x0000000A#32 = .ok (.jmp 0#8)

/-- 45_control.md, section 1: `HALT`. It does not wait for the store buffer, which keeps draining. -/
def Obligations.HaltStopsTheProducer : Prop :=
  (∀ s : State, exec .halt s = .next { s with
      halted := true, waiting := false, pc := s.pc + 1#8 })
  ∧ ReservedBitsRaise 0xF#4 4
  ∧ (∀ (s : State) (e : PendingStore) (es : List PendingStore) (ts : List Turn),
      s.halted = true → s.sb = e :: es → s.turns = .drain 0 :: ts →
      ∃ t, step s = .next t ∧ t.sb = es ∧ t.halted = true ∧ t.pc = s.pc)

/-- 45_control.md, section 1 (corner cases of `LOOPJ`): a `LOOPJ` to its own index runs `313 - J` times
and then falls through. -/
def Obligations.SelfLoopRunsThePassesLeft : Prop :=
  ∀ (s : State) (n : Nat), s.halted = false → s.j.toNat < 313 →
    decode s.fetch = .ok (.loopj s.pc) → s.turns = List.replicate n .producer →
    (n < 313 - s.j.toNat → ∃ t, Sys2Proof.core.run n s = .next t
      ∧ t.pc = s.pc ∧ t.j.toNat = s.j.toNat + n ∧ t.fault = s.fault)
    ∧ (n = 313 - s.j.toNat → ∃ t, Sys2Proof.core.run n s = .next t
      ∧ t.pc = s.pc + 1#8 ∧ t.j = 313#9 ∧ t.fault = s.fault)

/-- 44_exchange.md, section 1: with `WAITLIM = L > 0`, the `L`-th consecutive unsuccessful poll of `CMD`
faults, and the ones before it stay. -/
def Obligations.BoundedWaitFaultsAtTheLimit : Prop :=
  ∀ (s : State) (n : Nat), s.halted = false → s.fault = false → s.wcnt = 0#32 → s.waitlim ≠ 0#32 →
    decode s.fetch = .ok .waita → s.loadCmd ≠ 0#32 → s.turns = List.replicate n .producer →
    (n < s.waitlim.toNat → ∃ t, Sys2Proof.core.run n s = .next t
      ∧ t.wcnt.toNat = n ∧ t.fault = false ∧ t.halted = false ∧ t.pc = s.pc)
    ∧ (n = s.waitlim.toNat → ∃ t, Sys2Proof.core.run n s = .next t
      ∧ t.wcnt.toNat = s.waitlim.toNat - 1 ∧ t.fault = true ∧ t.halted = true ∧ t.cause = 3#4
      ∧ t.faultpc = s.pc ∧ t.pc = s.pc)

/-- 44_exchange.md, section 1: with `WAITLIM = 0` a poll of `CMD` that keeps finding the peer not ready
stays without limit, and its count saturates. -/
def Obligations.UnboundedPollNeverFaults : Prop :=
  ∀ (s : State) (n : Nat), s.halted = false → s.fault = false → s.waitlim = 0#32 →
    decode s.fetch = .ok .waita → s.loadCmd ≠ 0#32 → s.turns = List.replicate n .producer →
    ∃ t, Sys2Proof.core.run n s = .next t
      ∧ t.wcnt.toNat = min (s.wcnt.toNat + n) (2 ^ 32 - 1)
      ∧ t.fault = false ∧ t.halted = false ∧ t.pc = s.pc ∧ (1 ≤ n → t.waiting = true)

/-! ### What each operation leaves alone -/

/-- 20_memory.md, sections 5 and 6 (R69, R72): a producer operation changes no shared memory, whichever
byte one reads; its stores go to the young end of the store buffer. -/
def Obligations.ProducerStoresEnterTheBufferOnly : Prop :=
  ∀ (i : Instr) (s t : State), exec i s = .next t →
    (∀ a : Nat, t.byteAt a = s.byteAt a) ∧ t.cmdReg = s.cmdReg
    ∧ ∃ es, t.sb = s.sb ++ es ∧
      (i ≠ .fillf → i ≠ .filla → i ≠ .postf → i ≠ .posta → es = [])

/-- 10_state.md, section 1: each register is written by the operations that R21 lists for it and by no
other operation; none writes a value above 313 to `J`; and `FAULT`, `CAUSE` and `FAULTPC` are written by the
entry of a fault only. -/
def Obligations.EachRegisterHasItsWriters : Prop :=
  ∀ (i : Instr) (s t : State), exec i s = .next t →
    (i ≠ .seq → s.sameScheduler t)
    ∧ (i ≠ .seq → (∀ tgt, i ≠ .loopj tgt) → t.j = s.j) ∧ (t.j ≠ s.j → t.j.toNat ≤ 313)
    ∧ ((∀ x, i ≠ .lut x) → (∀ x, i ≠ .shuf x) → (∀ v p k, i ≠ .dds v p k) →
        (∀ v p k, i ≠ .gen v p k) → t.res = s.res)
    ∧ (i ≠ .posta → t.fc = s.fc)
    ∧ (i ≠ .waitf → i ≠ .waita → t.wcnt = s.wcnt)
    ∧ (i ≠ .halt → t.fault = false → t.halted = s.halted)
    ∧ (t = s.faulted 2#4 ∨ t = s.faulted 3#4
      ∨ t.fault = s.fault ∧ t.cause = s.cause ∧ t.faultpc = s.faultpc)
    ∧ s.sameConfig t
    ∧ t.mapBase = s.mapBase ∧ t.mapBytes = s.mapBytes ∧ t.cproto = s.cproto
    ∧ t.consumer = s.consumer ∧ t.buf = s.buf ∧ t.emitted = s.emitted
    ∧ t.hostSeen = s.hostSeen ∧ t.turns = s.turns

/-! ### Faults -/

/-- 60_exceptions.md, sections 1 and 2: an operation that sets `FAULT` has no other effect than the
fault entry, with `ARG_RANGE` for a pass index out of range and `PEER_UNRESPONSIVE` for the polls. -/
def Obligations.OperationFaultsArePrecise : Prop :=
  ∀ (i : Instr) (s t : State), s.fault = false → exec i s = .next t → t.fault = true →
    (t = s.faulted 2#4 ∧ ((i = .fillf ∨ i = .postf ∨ i = .filla ∨ ∃ tgt, i = .loopj tgt)
        ∧ 313 ≤ s.j.toNat ∨ ∃ v pj si, (i = .dds v pj si ∨ i = .gen v pj si) ∧ 313 ≤ pj.toNat))
    ∨ (t = s.faulted 3#4 ∧ (i = .waitf ∨ i = .waita) ∧ s.waitlim ≠ 0#32)

/-- 60_exceptions.md, sections 2 and 3: a faulted block stays as it is until reset, whatever any agent
does: `FAULT`, `CAUSE`, `FAULTPC`, `HALTED` and `pc` keep their values. -/
def Obligations.FaultIsStickyUntilReset : Prop :=
  ∀ s t : State, s.fault = true → s.halted = true → s.nextTurn ≠ .reset → step s = .next t →
    t.fault = true ∧ t.halted = true ∧ t.cause = s.cause ∧ t.faultpc = s.faultpc ∧ t.pc = s.pc

/-- 20_memory.md, section 5 (R69): shared memory and the command register are changed by no turn of the
producer, of the host at its port, or of reset, nor, by the model's choice of log entry 5, by one of the
platform while the producer runs. -/
def Obligations.SharedMemoryHasItsWriters : Prop :=
  ∀ s t : State, step s = .next t →
    (s.nextTurn = .producer ∨ s.nextTurn = .reset
      ∨ (∃ off w, s.nextTurn = .hostRead off w) ∨ (∃ off w v, s.nextTurn = .hostWrite off w v)
      ∨ s.halted = false ∧ ((∃ b n p, s.nextTurn = .launch b n p)
        ∨ ∃ a b, s.nextTurn = .platformWrite a b)) →
    s.sameShared t

/-- 10_state.md, section 9, and 70_reset_and_hazards.md, section 3: while the producer runs, no turn but
reset changes the configuration, the program or the message. -/
def Obligations.ConfigurationFixedWhileRunning : Prop :=
  ∀ s t : State, s.halted = false → s.nextTurn ≠ .reset → step s = .next t → s.sameConfig t

/-- 70_reset_and_hazards.md, section 2: a running producer is stopped by its own operation or by reset,
by no other turn. -/
def Obligations.OnlyProducerOrResetStopsTheProducer : Prop :=
  ∀ s t : State, s.halted = false → step s = .next t → t.halted = true →
    s.nextTurn = .producer ∨ s.nextTurn = .reset

/-- 10_state.md, section 9, and 60_exceptions.md, section 4: a halted producer is released only by a
host write of `CTRL` with bit 0 set, with no fault pending and a configuration that passes the start
check. -/
def Obligations.OnlyAHostStartReleasesTheProducer : Prop :=
  ∀ s t : State, s.halted = true → step s = .next t → t.halted = false →
    ∃ w : Word, s.nextTurn = .hostWrite 0 4 w ∧ w.getLsbD 0 = true ∧ s.fault = false
      ∧ 1 ≤ s.msglen.toNat ∧ s.base.toNat ≠ 0 ∧ s.base.toNat % 4 = 0
      ∧ s.base.toNat + 32768 ≤ 2 ^ 32

/-- R258: the start check. A host start that passes it sets `HALTED <- 0` and nothing else; one that
fails it takes the fault entry with cause `INIT`, at the `pc` where the start would have resumed. -/
def Obligations.StartChecksTheConfiguration : Prop :=
  ∀ (s : State) (w : Word) (ts : List Turn), s.turns = .hostWrite 0 4 w :: ts →
    w.getLsbD 0 = true → s.halted = true → s.fault = false →
    (1 ≤ s.msglen.toNat ∧ s.base.toNat ≠ 0 ∧ s.base.toNat % 4 = 0
        ∧ s.base.toNat + 32768 ≤ 2 ^ 32 →
      step s = .next { s with turns := ts, halted := false })
    ∧ (¬ (1 ≤ s.msglen.toNat ∧ s.base.toNat ≠ 0 ∧ s.base.toNat % 4 = 0
        ∧ s.base.toNat + 32768 ≤ 2 ^ 32) →
      step s = .next ({ s with turns := ts }.faulted 4#4))

/-- 10_state.md, section 9 (R41), and 60_exceptions.md, section 2: any other write of `CTRL` is ignored: bit
0 clear, a producer that is running, or a fault pending. -/
def Obligations.OtherControlWritesAreIgnored : Prop :=
  ∀ (s : State) (w : Word) (ts : List Turn), s.turns = .hostWrite 0 4 w :: ts →
    w.getLsbD 0 = false ∨ s.halted = false ∨ s.fault = true →
    step s = .next { s with turns := ts }

/-! ### The store buffer -/

/-- 20_memory.md, section 6 (R75; its fairness is in `FairDrainLetsAFenceComplete`): a drain turn takes any
entry with no older entry of its location, writes it to shared memory, little-endian and nowhere else, and
removes it. That a turn on an entry that may not be taken, or on none, passes with only the turn used up is
the model's choice of log entry 12, and that the byte after the top of the address space is byte 0 the one of
log entry 10. -/
def Obligations.DrainPerformsOneStore : Prop :=
  ∀ (s : State) (k : Nat) (ts : List Turn), s.turns = .drain k :: ts →
    (∀ a h, s.sb[k]? = some (.data a h) → (∀ e ∈ s.sb.take k, e.loc ≠ .data a) →
      ∃ t, step s = .next t ∧ t = { s with turns := ts, mem := t.mem, sb := s.sb.eraseIdx k }
        ∧ t.byteAt a.toNat = h.extractLsb' 0 8 ∧ t.byteAt (a + 1#32).toNat = h.extractLsb' 8 8
        ∧ ∀ x : Nat, x ≠ a.toNat → x ≠ (a + 1#32).toNat → t.byteAt x = s.byteAt x)
    ∧ (∀ w, s.sb[k]? = some (.cmd w) → (∀ e ∈ s.sb.take k, e.loc ≠ .cmd) →
      step s = .next { s with turns := ts, cmdReg := w, sb := s.sb.eraseIdx k })
    ∧ (∀ e, s.sb[k]? = some e → (∃ o ∈ s.sb.take k, o.loc = e.loc) →
      step s = .next { s with turns := ts })
    ∧ (s.sb[k]? = none → step s = .next { s with turns := ts })

/-- 20_memory.md, section 6 (R74 and R77 (c)): a drain step changes no value that a producer load can
see, for a buffer of stores as the producer issues them and any aligned address. -/
def Obligations.DrainPreservesProducerLoads : Prop :=
  ∀ (s : State) (k : Nat) (a : Word), (∀ e ∈ s.sb, e.issued = true) → a.toNat % 2 = 0 →
    (s.drain k).loadHalf a = s.loadHalf a ∧ (s.drain k).loadCmd = s.loadCmd

/-- 20_memory.md, section 6 (R70, R75 and R77 (a)): whatever order the drain takes the entries in, once
the buffer is empty every aligned 16-bit word of the data space, and the command register, hold what the
producer's youngest store to them wrote, or what they held before. -/
def Obligations.EveryDrainOrderEndsAlike : Prop :=
  ∀ (s t : State) (ks : List Nat), (∀ e ∈ s.sb, e.issued = true) → s.turns = ks.map .drain →
    Sys2Proof.core.run ks.length s = .next t → t.sb = [] →
    (∀ a : Word, a.toNat % 2 = 0 → t.halfAt a = s.loadHalf a) ∧ t.cmdReg = s.loadCmd

/-- 20_memory.md, section 6 (R75), and 44_exchange.md, section 4: the drain is weakly fair, so in every
run that goes on the store buffer becomes empty, at the latest one drain for each pending store after the
listed turns; and a `FENCE` cannot hang: it is released by as many turns of the drain as stores are pending,
be they listed, oldest entry first, or the default ones, and then completes. Which default turns make the
drain fair is the model's choice of log entry 1. -/
def Obligations.FairDrainLetsAFenceComplete : Prop :=
  (∀ s u : State, Sys2Proof.core.run s.turns.length s = .next u →
    ∃ t, Sys2Proof.core.run (s.turns.length + u.sb.length) s = .next t ∧ t.sb = [] ∧ t.turns = [])
  ∧ ∀ s : State, s.halted = false → decode s.fetch = .ok .fence →
    s.turns = [] ∨ s.turns = List.replicate s.sb.length (.drain 0) ++ [.producer] →
    ∃ t, Sys2Proof.core.run (s.sb.length + 1) s = .next t
      ∧ t.sb = [] ∧ t.pc = s.pc + 1#8 ∧ t.waiting = false ∧ t.wcnt = s.wcnt

/-! ### The consumer -/

/-- 44_exchange.md, section 5 (R217): the take of a handoff, in one atomic step. That with `CMD = 0` the
turn passes, with only the turn used up, is the model's choice of log entry 12. -/
def Obligations.ConsumerTakesTheHandoff : Prop :=
  ∀ (s : State) (b : Bool) (ts : List Turn), s.turns = .consumer b :: ts → s.cproto = .addr →
    s.consumer = .idle →
    (s.cmdReg ≠ 0#32 → step s = .next { s with
      turns := ts, cmdReg := 0#32, consumer := .reading s.cmdReg 0, buf := [] })
    ∧ (s.cmdReg = 0#32 → step s = .next { s with turns := ts })

/-- 44_exchange.md, section 5 (R215 and R216, with the region's base as the platform mapped it, the
model's choice of log entry 11): in the flag-bit protocol an idle consumer begins when bit 8 is set; its
done step emits the block and clears bit 8, keeps or clears bit 15 by the draw, and changes no other
bit. That with bit 8 clear the turn passes, with only the turn used up, is the model's choice of log entry
12. Its reads between the two are in `ConsumerEmitsTheBlockItReads`. -/
def Obligations.FlagConsumerBeginsAndFrees : Prop :=
  ∀ (s : State) (keep15 : Bool) (ts : List Turn), s.turns = .consumer keep15 :: ts →
    s.cproto = .flag →
    (s.consumer = .idle → (s.halfAt s.mapBase).getLsbD 8 = true → step s = .next { s with
      turns := ts, consumer := .reading s.mapBase 0, buf := [] })
    ∧ (s.consumer = .idle → (s.halfAt s.mapBase).getLsbD 8 = false →
      step s = .next { s with turns := ts })
    ∧ (s.consumer = .reading s.mapBase 4096 → ∃ t, step s = .next t
      ∧ t = { s with
          turns := ts, mem := t.mem, consumer := .idle, emitted := s.emitted ++ [s.buf] }
      ∧ (t.halfAt s.mapBase).getLsbD 8 = false
      ∧ (t.halfAt s.mapBase).getLsbD 15 = (keep15 && (s.halfAt s.mapBase).getLsbD 15)
      ∧ (∀ k, k ≠ 8 → k ≠ 15 →
          (t.halfAt s.mapBase).getLsbD k = (s.halfAt s.mapBase).getLsbD k)
      ∧ ∀ x : Nat, x ≠ s.mapBase.toNat → x ≠ (s.mapBase + 1#32).toNat →
          t.byteAt x = s.byteAt x)

/-- 44_exchange.md, section 5 (R218 to R220). In both protocols a consumer that reads takes the next word,
straight from shared memory, and counts it; left to itself it reads the 4096 words of its block in order. In
the address-handoff protocol it then emits them as one block. Nothing else changes. That `a + 2k` is taken
modulo 2^32 is the model's choice of log entry 10. -/
def Obligations.ConsumerEmitsTheBlockItReads : Prop :=
  (∀ (s : State) (a : Word) (k : Nat) (b : Bool) (ts : List Turn), s.turns = .consumer b :: ts →
    s.consumer = .reading a k → k < 4096 →
    step s = .next { s with
      turns := ts, consumer := .reading a (k + 1)
      buf := s.buf ++ [s.halfAt (a + address (2 * k))] })
  ∧ (∀ (s : State) (a : Word) (b : Bool), s.consumer = .reading a 0 → s.buf = [] →
    s.turns = List.replicate 4096 (.consumer b) →
    Sys2Proof.core.run 4096 s = .next { s with
      turns := [], consumer := .reading a 4096
      buf := (List.range 4096).map fun k => s.halfAt (a + address (2 * k)) })
  ∧ ∀ (s : State) (a : Word) (b : Bool), s.cproto = .addr → s.consumer = .reading a 0 → s.buf = [] →
    s.turns = List.replicate 4097 (.consumer b) →
    Sys2Proof.core.run 4097 s = .next { s with
      turns := [], consumer := .idle
      buf := (List.range 4096).map fun k => s.halfAt (a + address (2 * k))
      emitted := s.emitted ++ [(List.range 4096).map fun k => s.halfAt (a + address (2 * k))] }

/-! ### Reset, the host port and the platform -/

/-- R47: the value of every piece of block state after a block reset, whatever it was before; shared
memory, and the consumer with it, are unchanged. -/
def Obligations.ResetSetsEveryBlockRegister : Prop :=
  ∀ (s : State) (ts : List Turn), s.turns = .reset :: ts → ∃ t, step s = .next t
    ∧ (t.pc = 0#8 ∧ t.v = 0#3 ∧ t.j = 0#9 ∧ t.res = 0#32 ∧ t.fc = 0#32 ∧ t.wcnt = 0#32)
    ∧ (t.offset = 0#16 ∧ t.old = false ∧ t.cur = false ∧ t.new = false ∧ t.phase = false)
    ∧ t.halted = true
    ∧ (t.fault = false ∧ t.waiting = false ∧ t.cause = 0#4 ∧ t.faultpc = 0#8)
    ∧ (t.base = 0#32 ∧ t.waitlim = 0#32 ∧ t.msglen = 0#16)
    ∧ (t.prog.toList.take 7 = [0x00000001#32, 0x00000005#32, 0x00000006#32, 0x00000008#32,
        0x00000007#32, 0x00000019#32, 0x0000000A#32]
      ∧ ∀ k : Fin 256, 7 ≤ k.val → t.prog[k] = 0x00000000#32)
    ∧ (∀ k : BitVec 16, t.msgBit k = false)
    ∧ t.sb = [] ∧ s.sameShared t
    ∧ (t.consumer = s.consumer ∧ t.buf = s.buf ∧ t.emitted = s.emitted ∧ t.cproto = s.cproto
      ∧ t.mapBase = s.mapBase ∧ t.mapBytes = s.mapBytes ∧ t.turns = ts)

/-- 10_state.md, section 9: what a host read of each offset returns, with no effect on the block. -/
def Obligations.HostReadsTheRegisterMap : Prop :=
  ∀ (s : State) (off : Nat) (ts : List Turn), s.turns = .hostRead off 4 :: ts → off % 4 = 0 →
    off < 0x4000 → ∃ x : Word,
    step s = .next { s with turns := ts, hostSeen := s.hostSeen ++ [x] }
    ∧ (off = 0x000 → x.toNat = (!s.halted).toNat)
    ∧ (off = 0x004 → x.toNat = s.halted.toNat + 2 * s.fault.toNat + 4 * s.waiting.toNat
        + 8 * s.sb.isEmpty.toNat + 2 ^ 4 * s.cause.toNat + 2 ^ 8 * s.faultpc.toNat
        + 2 ^ 16 * s.pc.toNat)
    ∧ (off = 0x008 → x = s.res)
    ∧ (off = 0x00C → x.toNat = s.offset.toNat + 2 ^ 16 * s.old.toNat + 2 ^ 17 * s.cur.toNat
        + 2 ^ 18 * s.new.toNat + 2 ^ 19 * s.phase.toNat + 2 ^ 20 * s.v.toNat)
    ∧ (off = 0x010 → x.toNat = s.j.toNat)
    ∧ (off = 0x014 → x = s.fc) ∧ (off = 0x018 → x = s.wcnt) ∧ (off = 0x01C → x = s.base)
    ∧ (off = 0x020 → x = s.waitlim) ∧ (off = 0x024 → x.toNat = s.msglen.toNat)
    ∧ (∀ k : Fin 256, off = 0x400 + 4 * k.val → x = s.prog[k])
    ∧ (∀ (m : Fin 2048) (b : Nat), off = 0x2000 + 4 * m.val → b < 32 →
        x.getLsbD b = s.msgBit (BitVec.ofNat 16 (32 * m.val + b)))
    ∧ (0x028 ≤ off → off < 0x400 ∨ (0x800 ≤ off ∧ off < 0x2000) → x = 0#32)

/-- 10_state.md, section 9: the configuration registers and the two windows take a host write while the
block is halted, and only then; a written message word sets its 32 bits and no other. -/
def Obligations.HostWritesConfigurationWhileHalted : Prop :=
  ∀ (s : State) (w : Word) (ts : List Turn),
    (∀ off, s.turns = .hostWrite off 4 w :: ts → off % 4 = 0 → off < 0x4000 →
      s.halted = false → step s = .next { s with turns := ts })
    ∧ (s.halted = true →
      (s.turns = .hostWrite 0x01C 4 w :: ts → step s = .next { s with turns := ts, base := w })
      ∧ (s.turns = .hostWrite 0x020 4 w :: ts → step s = .next { s with turns := ts, waitlim := w })
      ∧ (s.turns = .hostWrite 0x024 4 w :: ts →
          step s = .next { s with turns := ts, msglen := w.extractLsb' 0 16 })
      ∧ (∀ k : Fin 256, s.turns = .hostWrite (0x400 + 4 * k.val) 4 w :: ts →
          ∃ t, step s = .next t ∧ t = { s with turns := ts, prog := t.prog } ∧ t.prog[k] = w
            ∧ ∀ k' : Fin 256, k' ≠ k → t.prog[k'] = s.prog[k'])
      ∧ (∀ m : Fin 2048, s.turns = .hostWrite (0x2000 + 4 * m.val) 4 w :: ts →
          ∃ t, step s = .next t ∧ t = { s with turns := ts, msg := t.msg }
            ∧ ∀ n : BitVec 16, t.msgBit n =
                if n.toNat / 32 = m.val then w.getLsbD (n.toNat % 32) else s.msgBit n))

/-- 10_state.md, section 9 (R46 (1), (5) and (6)): a host access that is not an aligned 32-bit one
inside the window is refused; a write of a read-only register or of an unmapped offset is ignored. -/
def Obligations.HostAccessRules : Prop :=
  ∀ (s : State) (off width : Nat) (w : Word) (ts : List Turn),
    (¬ (width = 4 ∧ off % 4 = 0 ∧ off < 0x4000) →
      (s.turns = .hostRead off width :: ts ∨ s.turns = .hostWrite off width w :: ts) →
      step s = .refused .hostAccess)
    ∧ (s.turns = .hostWrite off 4 w :: ts → off % 4 = 0 → off < 0x4000 →
      (0x004 ≤ off ∧ off ≤ 0x018) ∨ (0x028 ≤ off ∧ off < 0x400) ∨ (0x800 ≤ off ∧ off < 0x2000) →
      step s = .next { s with turns := ts })

/-- 70_reset_and_hazards.md, section 2 (R282 step 2 and R284): a launch of a halted block, with
parameters inside their constraint, establishes the premises and changes no byte but the flag word's high
one, and in it bit 8 only. That parameters outside it are refused, and that a launch while the producer runs
changes nothing, are the model's choices of log entry 5. -/
def Obligations.LaunchEstablishesThePremises : Prop :=
  ∀ (s : State) (base : Word) (bytes : Nat) (proto : Protocol) (ts : List Turn),
    s.turns = .launch base bytes proto :: ts →
    (launchOk base bytes proto = true → s.halted = true → ∃ t, step s = .next t
      ∧ t = { s with
          turns := ts, mem := t.mem, cmdReg := 0#32, mapBase := base, mapBytes := bytes
          cproto := proto, consumer := .idle, buf := [] }
      ∧ (∀ k, (t.halfAt base).getLsbD k = (decide (k ≠ 8) && (s.halfAt base).getLsbD k))
      ∧ ∀ x : Nat, x ≠ (base + 1#32).toNat → t.byteAt x = s.byteAt x)
    ∧ (launchOk base bytes proto = true → s.halted = false → step s = .next { s with turns := ts })
    ∧ (launchOk base bytes proto = false → step s = .refused .launchParameters)

/-! ### The invariant -/

/-- 10_state.md, section 10: the invariant holds at reset. -/
def Obligations.ResetStateMeetsInvariant : Prop := State.reset.Inv

/-- The invariant of Safety.lean, each part with its rule there, is kept by every step of every agent,
from every state that meets it. -/
def Obligations.EveryStepKeepsInvariant : Prop :=
  ∀ s t : State, s.Inv → step s = .next t → t.Inv

/-- 20_memory.md, sections 2 and 6, and 60_exceptions.md, section 1: in a state that meets the invariant
the machine never refuses an operation, and a producer's turn fails only by a store outside the mapped
region; with the four slots mapped at `BASE` it never fails. -/
def Obligations.RunningProducerIsNeverRefused : Prop :=
  ∀ s : State, s.Inv → s.nextTurn = .producer →
    (∀ r, step s ≠ .refused r)
    ∧ (s.mapBase = s.base → 32768 ≤ s.mapBytes → ∃ t, step s = .next t)
end

