-- ==== Sys2Proof/Laws/Assembler.lean ====
section
/-! SUPPORT. What the assembler's functions can do, said once. -/

namespace Sys2Proof.Machine

/-- The labels of a program are the names that stand before its lines, in their order. -/
theorem asmLabels_names (k : Nat) (ls : List AsmLine) :
    (asmLabels k ls).map Prod.fst = ls.filterMap AsmLine.label := by
  induction ls generalizing k with
  | nil => rfl
  | cons l ls ih => cases h : l.label <;> simp [asmLabels, h, ih]

/-- The labels of a second part start at the index that the first part reaches. -/
theorem asmLabels_append (k : Nat) (a b : List AsmLine) :
    asmLabels k (a ++ b) = asmLabels k a ++ asmLabels (k + (a.map fun l => asmSize l.op).sum) b := by
  induction a generalizing k with
  | nil => simp [asmLabels]
  | cons l a ih => cases h : l.label <;> simp [asmLabels, h, ih, Nat.add_assoc]

/-- A line has as many operations as its size. -/
theorem asmInstrs_length {labels : List (List Char × Nat)} {op : AsmOp} {is : List Instr}
    (h : asmInstrs labels op = .ok is) : is.length = asmSize op := by
  cases op with
  | loopj t => cases ht : asmTarget labels t <;> simp [asmInstrs, ht, Except.map] at h; subst h; rfl
  | jmp t => cases ht : asmTarget labels t <;> simp [asmInstrs, ht, Except.map] at h; subst h; rfl
  | _ => simp only [asmInstrs, Except.ok.injEq] at h; subst h; rfl

/-- Everything that the assembly of a first line and the rest can do, when it answers words. -/
theorem asmWords_cons {labels : List (List Char × Nat)} {l : AsmLine} {ls : List AsmLine} {ws : List Word}
    (h : asmWords labels (l :: ls) = .ok ws) :
    l.op.wellFormed = true ∧ ∃ is vs, asmInstrs labels l.op = .ok is ∧ asmWords labels ls = .ok vs
        ∧ ws = is.map encode ++ vs := by
  simp only [asmWords] at h
  split at h
  · rename_i hw
    refine ⟨hw, ?_⟩
    split at h
    · cases h; exact ⟨_, _, by assumption, by assumption, rfl⟩
    · cases h
    · cases h
  · cases h

/-- A program that assembles fits the program store and has no label twice. -/
theorem assembleLines_ok {ls : List AsmLine} {ws : List Word} (h : assembleLines ls = .ok ws) :
    (ls.map fun l => asmSize l.op).sum ≤ 256 ∧ (ls.filterMap AsmLine.label).Nodup
      ∧ asmWords (asmLabels 0 ls) ls = .ok ws := by
  simp only [assembleLines] at h
  split at h
  · cases h
  · split at h
    · rename_i h1 h2
      rw [asmLabels_names] at h2
      exact ⟨Nat.not_lt.1 h1, h2, h⟩
    · cases h

/-- The digits of a number are read from the front. -/
theorem digitsFrom_append (b acc : Nat) (x y : List Char) :
    digitsFrom b acc (x ++ y) = (digitsFrom b acc x).bind fun a => digitsFrom b a y := by
  induction x generalizing acc with
  | nil => rfl
  | cons c x ih =>
    simp only [List.cons_append, digitsFrom]
    cases digitValue b c <;> simp [ih]

/-- A digit character is read as its value. -/
theorem digitValue_digitChar {b d : Nat} (hb : b = 10 ∨ b = 16) (h : d < b) :
    digitValue b d.digitChar = some d := by
  rcases hb with rfl | rfl <;> revert d <;> decide

end Sys2Proof.Machine
end

