-- ==== Sys2Proof/Laws/Bits.lean ====
section
/-! SUPPORT. Bit vectors as numbers: concatenation, and the bits of a word above a position. -/

namespace Sys2Proof.Machine

/-- The number of a concatenation. -/
theorem toNat_append_add {m n : Nat} (x : BitVec m) (y : BitVec n) :
    (x ++ y).toNat = x.toNat * 2 ^ n + y.toNat := by
  rw [BitVec.toNat_append, ← Nat.shiftLeft_add_eq_or_of_lt y.isLt, Nat.shiftLeft_eq]

/-- A word has a 1 at or above bit `lo` exactly when that part of it is not 0. -/
theorem bitsFrom_ne_zero {w : Word} {lo n : Nat} (hn : lo + n = 32) :
    w.toNat / 2 ^ lo ≠ 0 ↔ w.extractLsb' lo n ≠ 0#n := by
  have hw : (w.extractLsb' lo n).toNat = w.toNat / 2 ^ lo := by
    simp only [BitVec.extractLsb'_toNat, Nat.shiftRight_eq_div_pow]
    apply Nat.mod_eq_of_lt
    rw [Nat.div_lt_iff_lt_mul (by positivity), ← pow_add, Nat.add_comm, hn]
    exact w.isLt
  rw [← hw]
  exact ⟨fun h h' => h (by simp [h']), fun h h' => h (BitVec.eq_of_toNat_eq (by simpa using h'))⟩

end Sys2Proof.Machine
end

