-- ==== Sys2Proof/Laws/Encoding.lean ====
section
/-! SUPPORT. The fields of an encoded word, the word that a legal word's fields encode, and everything the
decoder can answer. -/

namespace Sys2Proof

/-- The fields of a word of format N. -/
theorem encodeN_fields (op : BitVec 4) :
    opField (encodeN op) = op ∧ (encodeN op).extractLsb' 4 28 = 0#28 := by
  refine ⟨?_, ?_⟩ <;>
  · apply BitVec.eq_of_getLsbD_eq
    intro i hi
    simp only [opField, encodeN, BitVec.getLsbD_extractLsb', BitVec.getLsbD_cast,
      BitVec.getLsbD_append, BitVec.getLsbD_zero]
    grind

/-- The fields of a word of format T. -/
theorem encodeT_fields (op : BitVec 4) (tgt : BitVec 8) :
    opField (encodeT op tgt) = op ∧ (encodeT op tgt).extractLsb' 12 20 = 0#20
      ∧ tgtField (encodeT op tgt) = tgt := by
  refine ⟨?_, ?_, ?_⟩ <;>
  · apply BitVec.eq_of_getLsbD_eq
    intro i hi
    simp only [opField, tgtField, encodeT, BitVec.getLsbD_extractLsb', BitVec.getLsbD_cast,
      BitVec.getLsbD_append, BitVec.getLsbD_zero]
    grind

/-- The fields of a word of format L. -/
theorem encodeL_fields (op : BitVec 4) (idx : BitVec 7) :
    opField (encodeL op idx) = op ∧ (encodeL op idx).extractLsb' 11 21 = 0#21
      ∧ idxField (encodeL op idx) = idx := by
  refine ⟨?_, ?_, ?_⟩ <;>
  · apply BitVec.eq_of_getLsbD_eq
    intro i hi
    simp only [opField, idxField, encodeL, BitVec.getLsbD_extractLsb', BitVec.getLsbD_cast,
      BitVec.getLsbD_append, BitVec.getLsbD_zero]
    grind

/-- The fields of a word of format X, laid out as format T is. -/
theorem encodeX_fields (op : BitVec 4) (xin : BitVec 8) :
    opField (encodeX op xin) = op ∧ (encodeX op xin).extractLsb' 12 20 = 0#20
      ∧ xinField (encodeX op xin) = xin := encodeT_fields op xin

/-- The fields of a word of format G. -/
theorem encodeG_fields (op : BitVec 4) (var : BitVec 3) (pj : BitVec 9) (si : BitVec 12) :
    opField (encodeG op var pj si) = op ∧ (encodeG op var pj si).extractLsb' 28 4 = 0#4
      ∧ varField (encodeG op var pj si) = var ∧ pjField (encodeG op var pj si) = pj
      ∧ siField (encodeG op var pj si) = si := by
  refine ⟨?_, ?_, ?_, ?_, ?_⟩ <;>
  · apply BitVec.eq_of_getLsbD_eq
    intro i hi
    simp only [opField, varField, pjField, siField, encodeG, BitVec.getLsbD_extractLsb',
      BitVec.getLsbD_cast, BitVec.getLsbD_append, BitVec.getLsbD_zero]
    grind

/-- A word whose reserved bits of format N are 0 is the encoding of its opcode. -/
theorem encodeN_opField {w : Word} (hr : w.extractLsb' 4 28 = 0#28) : encodeN (opField w) = w := by
  apply BitVec.eq_of_getLsbD_eq
  intro i hi
  have h := congrArg (fun x => x.getLsbD (i - 4)) hr
  simp only [BitVec.getLsbD_extractLsb', BitVec.getLsbD_zero] at h
  simp only [opField, encodeN, BitVec.getLsbD_extractLsb', BitVec.getLsbD_cast,
    BitVec.getLsbD_append, BitVec.getLsbD_zero]
  grind

/-- A word whose reserved bits of format T are 0 is the encoding of its fields. -/
theorem encodeT_tgtField {w : Word} (hr : w.extractLsb' 12 20 = 0#20) :
    encodeT (opField w) (tgtField w) = w := by
  apply BitVec.eq_of_getLsbD_eq
  intro i hi
  have h := congrArg (fun x => x.getLsbD (i - 12)) hr
  simp only [BitVec.getLsbD_extractLsb', BitVec.getLsbD_zero] at h
  simp only [opField, tgtField, encodeT, BitVec.getLsbD_extractLsb', BitVec.getLsbD_cast,
    BitVec.getLsbD_append, BitVec.getLsbD_zero]
  grind

/-- A word whose reserved bits of format L are 0 is the encoding of its fields. -/
theorem encodeL_idxField {w : Word} (hr : w.extractLsb' 11 21 = 0#21) :
    encodeL (opField w) (idxField w) = w := by
  apply BitVec.eq_of_getLsbD_eq
  intro i hi
  have h := congrArg (fun x => x.getLsbD (i - 11)) hr
  simp only [BitVec.getLsbD_extractLsb', BitVec.getLsbD_zero] at h
  simp only [opField, idxField, encodeL, BitVec.getLsbD_extractLsb', BitVec.getLsbD_cast,
    BitVec.getLsbD_append, BitVec.getLsbD_zero]
  grind

/-- A word whose reserved bits of format X are 0 is the encoding of its fields. -/
theorem encodeX_xinField {w : Word} (hr : w.extractLsb' 12 20 = 0#20) :
    encodeX (opField w) (xinField w) = w := encodeT_tgtField hr

/-- A word whose reserved bits of format G are 0 is the encoding of its fields. -/
theorem encodeG_fieldsOf {w : Word} (hr : w.extractLsb' 28 4 = 0#4) :
    encodeG (opField w) (varField w) (pjField w) (siField w) = w := by
  apply BitVec.eq_of_getLsbD_eq
  intro i hi
  have h := congrArg (fun x => x.getLsbD (i - 28)) hr
  simp only [BitVec.getLsbD_extractLsb', BitVec.getLsbD_zero] at h
  simp only [opField, varField, pjField, siField, encodeG, BitVec.getLsbD_extractLsb',
    BitVec.getLsbD_cast, BitVec.getLsbD_append, BitVec.getLsbD_zero]
  grind

/-- What the reserved-field test answers. -/
theorem ifReservedZero_ok {n : Nat} {r : BitVec n} {i : Instr} (h : r = 0#n) :
    ifReservedZero r i = .ok i := if_pos h

/-- What the reserved-field test answers where a reserved bit is 1. -/
theorem ifReservedZero_error {n : Nat} {r : BitVec n} {i : Instr} (h : r ≠ 0#n) :
    ifReservedZero r i = .error .reservedBitSet := if_neg h

/-- The mask test of a reserved field from bit `lo` up. -/
theorem and_highMask {w : Word} {lo n : Nat} (hn : lo + n = 32) {m : Word}
    (hm : m = BitVec.allOnes 32 <<< lo) : w &&& m = 0#32 ↔ w.extractLsb' lo n = 0#n := by
  subst hm
  constructor
  · intro h
    apply BitVec.eq_of_getLsbD_eq
    intro i hi
    have := congrArg (fun x => x.getLsbD (lo + i)) h
    simp only [BitVec.getLsbD_and, BitVec.getLsbD_shiftLeft, BitVec.getLsbD_allOnes,
      BitVec.getLsbD_zero] at this
    simp only [BitVec.getLsbD_extractLsb', BitVec.getLsbD_zero, hi]
    grind
  · intro h
    apply BitVec.eq_of_getLsbD_eq
    intro i hi
    simp only [BitVec.getLsbD_and, BitVec.getLsbD_shiftLeft, BitVec.getLsbD_allOnes,
      BitVec.getLsbD_zero]
    by_cases hl : i < lo
    · simp [hl]
    · have := congrArg (fun x => x.getLsbD (i - lo)) h
      simp only [BitVec.getLsbD_extractLsb', BitVec.getLsbD_zero] at this
      grind

/-- The reserved mask of a format tests its reserved field. -/
theorem reservedMask_iff (w : Word) (f : Format) :
    w &&& f.reservedMask = 0#32 ↔
      match f with
      | .N => w.extractLsb' 4 28 = 0#28
      | .T => w.extractLsb' 12 20 = 0#20
      | .L => w.extractLsb' 11 21 = 0#21
      | .X => w.extractLsb' 12 20 = 0#20
      | .G => w.extractLsb' 28 4 = 0#4 := by
  cases f
  · exact and_highMask (lo := 4) rfl (by decide)
  · exact and_highMask (lo := 12) rfl (by decide)
  · exact and_highMask (lo := 11) rfl (by decide)
  · exact and_highMask (lo := 12) rfl (by decide)
  · exact and_highMask (lo := 28) rfl (by decide)

end Sys2Proof
end

