-- ==== Sys2Proof/Laws/State.lean ====
section
/-! SUPPORT. What each update of the state leaves in each field: one lemma per field per update, true by
unfolding, so that no later proof unfolds a record update. -/

namespace Sys2Proof.Machine

/-! ### `advance` -/

@[simp] theorem State.advance_pc (s : State) : (s.advance).pc = s.pc + 1#8 := rfl
@[simp] theorem State.advance_v (s : State) : (s.advance).v = s.v := rfl
@[simp] theorem State.advance_j (s : State) : (s.advance).j = s.j := rfl
@[simp] theorem State.advance_res (s : State) : (s.advance).res = s.res := rfl
@[simp] theorem State.advance_fc (s : State) : (s.advance).fc = s.fc := rfl
@[simp] theorem State.advance_wcnt (s : State) : (s.advance).wcnt = s.wcnt := rfl
@[simp] theorem State.advance_offset (s : State) : (s.advance).offset = s.offset := rfl
@[simp] theorem State.advance_old (s : State) : (s.advance).old = s.old := rfl
@[simp] theorem State.advance_cur (s : State) : (s.advance).cur = s.cur := rfl
@[simp] theorem State.advance_new (s : State) : (s.advance).new = s.new := rfl
@[simp] theorem State.advance_phase (s : State) : (s.advance).phase = s.phase := rfl
@[simp] theorem State.advance_halted (s : State) : (s.advance).halted = s.halted := rfl
@[simp] theorem State.advance_fault (s : State) : (s.advance).fault = s.fault := rfl
@[simp] theorem State.advance_waiting (s : State) : (s.advance).waiting = false := rfl
@[simp] theorem State.advance_cause (s : State) : (s.advance).cause = s.cause := rfl
@[simp] theorem State.advance_faultpc (s : State) : (s.advance).faultpc = s.faultpc := rfl
@[simp] theorem State.advance_base (s : State) : (s.advance).base = s.base := rfl
@[simp] theorem State.advance_waitlim (s : State) : (s.advance).waitlim = s.waitlim := rfl
@[simp] theorem State.advance_msglen (s : State) : (s.advance).msglen = s.msglen := rfl
@[simp] theorem State.advance_prog (s : State) : (s.advance).prog = s.prog := rfl
@[simp] theorem State.advance_msg (s : State) : (s.advance).msg = s.msg := rfl
@[simp] theorem State.advance_sb (s : State) : (s.advance).sb = s.sb := rfl
@[simp] theorem State.advance_mem (s : State) : (s.advance).mem = s.mem := rfl
@[simp] theorem State.advance_cmdReg (s : State) : (s.advance).cmdReg = s.cmdReg := rfl
@[simp] theorem State.advance_mapBase (s : State) : (s.advance).mapBase = s.mapBase := rfl
@[simp] theorem State.advance_mapBytes (s : State) : (s.advance).mapBytes = s.mapBytes := rfl
@[simp] theorem State.advance_cproto (s : State) : (s.advance).cproto = s.cproto := rfl
@[simp] theorem State.advance_consumer (s : State) : (s.advance).consumer = s.consumer := rfl
@[simp] theorem State.advance_buf (s : State) : (s.advance).buf = s.buf := rfl
@[simp] theorem State.advance_emitted (s : State) : (s.advance).emitted = s.emitted := rfl
@[simp] theorem State.advance_hostSeen (s : State) : (s.advance).hostSeen = s.hostSeen := rfl
@[simp] theorem State.advance_turns (s : State) : (s.advance).turns = s.turns := rfl

/-! ### `jumpTo` -/

@[simp] theorem State.jumpTo_pc (s : State) (tgt : BitVec 8) : (s.jumpTo tgt).pc = tgt := rfl
@[simp] theorem State.jumpTo_v (s : State) (tgt : BitVec 8) : (s.jumpTo tgt).v = s.v := rfl
@[simp] theorem State.jumpTo_j (s : State) (tgt : BitVec 8) : (s.jumpTo tgt).j = s.j := rfl
@[simp] theorem State.jumpTo_res (s : State) (tgt : BitVec 8) : (s.jumpTo tgt).res = s.res := rfl
@[simp] theorem State.jumpTo_fc (s : State) (tgt : BitVec 8) : (s.jumpTo tgt).fc = s.fc := rfl
@[simp] theorem State.jumpTo_wcnt (s : State) (tgt : BitVec 8) : (s.jumpTo tgt).wcnt = s.wcnt := rfl
@[simp] theorem State.jumpTo_offset (s : State) (tgt : BitVec 8) :
    (s.jumpTo tgt).offset = s.offset := rfl
@[simp] theorem State.jumpTo_old (s : State) (tgt : BitVec 8) : (s.jumpTo tgt).old = s.old := rfl
@[simp] theorem State.jumpTo_cur (s : State) (tgt : BitVec 8) : (s.jumpTo tgt).cur = s.cur := rfl
@[simp] theorem State.jumpTo_new (s : State) (tgt : BitVec 8) : (s.jumpTo tgt).new = s.new := rfl
@[simp] theorem State.jumpTo_phase (s : State) (tgt : BitVec 8) :
    (s.jumpTo tgt).phase = s.phase := rfl
@[simp] theorem State.jumpTo_halted (s : State) (tgt : BitVec 8) :
    (s.jumpTo tgt).halted = s.halted := rfl
@[simp] theorem State.jumpTo_fault (s : State) (tgt : BitVec 8) :
    (s.jumpTo tgt).fault = s.fault := rfl
@[simp] theorem State.jumpTo_waiting (s : State) (tgt : BitVec 8) :
    (s.jumpTo tgt).waiting = false := rfl
@[simp] theorem State.jumpTo_cause (s : State) (tgt : BitVec 8) :
    (s.jumpTo tgt).cause = s.cause := rfl
@[simp] theorem State.jumpTo_faultpc (s : State) (tgt : BitVec 8) :
    (s.jumpTo tgt).faultpc = s.faultpc := rfl
@[simp] theorem State.jumpTo_base (s : State) (tgt : BitVec 8) : (s.jumpTo tgt).base = s.base := rfl
@[simp] theorem State.jumpTo_waitlim (s : State) (tgt : BitVec 8) :
    (s.jumpTo tgt).waitlim = s.waitlim := rfl
@[simp] theorem State.jumpTo_msglen (s : State) (tgt : BitVec 8) :
    (s.jumpTo tgt).msglen = s.msglen := rfl
@[simp] theorem State.jumpTo_prog (s : State) (tgt : BitVec 8) : (s.jumpTo tgt).prog = s.prog := rfl
@[simp] theorem State.jumpTo_msg (s : State) (tgt : BitVec 8) : (s.jumpTo tgt).msg = s.msg := rfl
@[simp] theorem State.jumpTo_sb (s : State) (tgt : BitVec 8) : (s.jumpTo tgt).sb = s.sb := rfl
@[simp] theorem State.jumpTo_mem (s : State) (tgt : BitVec 8) : (s.jumpTo tgt).mem = s.mem := rfl
@[simp] theorem State.jumpTo_cmdReg (s : State) (tgt : BitVec 8) :
    (s.jumpTo tgt).cmdReg = s.cmdReg := rfl
@[simp] theorem State.jumpTo_mapBase (s : State) (tgt : BitVec 8) :
    (s.jumpTo tgt).mapBase = s.mapBase := rfl
@[simp] theorem State.jumpTo_mapBytes (s : State) (tgt : BitVec 8) :
    (s.jumpTo tgt).mapBytes = s.mapBytes := rfl
@[simp] theorem State.jumpTo_cproto (s : State) (tgt : BitVec 8) :
    (s.jumpTo tgt).cproto = s.cproto := rfl
@[simp] theorem State.jumpTo_consumer (s : State) (tgt : BitVec 8) :
    (s.jumpTo tgt).consumer = s.consumer := rfl
@[simp] theorem State.jumpTo_buf (s : State) (tgt : BitVec 8) : (s.jumpTo tgt).buf = s.buf := rfl
@[simp] theorem State.jumpTo_emitted (s : State) (tgt : BitVec 8) :
    (s.jumpTo tgt).emitted = s.emitted := rfl
@[simp] theorem State.jumpTo_hostSeen (s : State) (tgt : BitVec 8) :
    (s.jumpTo tgt).hostSeen = s.hostSeen := rfl
@[simp] theorem State.jumpTo_turns (s : State) (tgt : BitVec 8) :
    (s.jumpTo tgt).turns = s.turns := rfl

/-! ### `complete` -/

@[simp] theorem State.complete_pc (s : State) (r : Word) : (s.complete r).pc = s.pc + 1#8 := rfl
@[simp] theorem State.complete_v (s : State) (r : Word) : (s.complete r).v = s.v := rfl
@[simp] theorem State.complete_j (s : State) (r : Word) : (s.complete r).j = s.j := rfl
@[simp] theorem State.complete_res (s : State) (r : Word) : (s.complete r).res = r := rfl
@[simp] theorem State.complete_fc (s : State) (r : Word) : (s.complete r).fc = s.fc := rfl
@[simp] theorem State.complete_wcnt (s : State) (r : Word) : (s.complete r).wcnt = s.wcnt := rfl
@[simp] theorem State.complete_offset (s : State) (r : Word) :
    (s.complete r).offset = s.offset := rfl
@[simp] theorem State.complete_old (s : State) (r : Word) : (s.complete r).old = s.old := rfl
@[simp] theorem State.complete_cur (s : State) (r : Word) : (s.complete r).cur = s.cur := rfl
@[simp] theorem State.complete_new (s : State) (r : Word) : (s.complete r).new = s.new := rfl
@[simp] theorem State.complete_phase (s : State) (r : Word) : (s.complete r).phase = s.phase := rfl
@[simp] theorem State.complete_halted (s : State) (r : Word) :
    (s.complete r).halted = s.halted := rfl
@[simp] theorem State.complete_fault (s : State) (r : Word) : (s.complete r).fault = s.fault := rfl
@[simp] theorem State.complete_waiting (s : State) (r : Word) :
    (s.complete r).waiting = false := rfl
@[simp] theorem State.complete_cause (s : State) (r : Word) : (s.complete r).cause = s.cause := rfl
@[simp] theorem State.complete_faultpc (s : State) (r : Word) :
    (s.complete r).faultpc = s.faultpc := rfl
@[simp] theorem State.complete_base (s : State) (r : Word) : (s.complete r).base = s.base := rfl
@[simp] theorem State.complete_waitlim (s : State) (r : Word) :
    (s.complete r).waitlim = s.waitlim := rfl
@[simp] theorem State.complete_msglen (s : State) (r : Word) :
    (s.complete r).msglen = s.msglen := rfl
@[simp] theorem State.complete_prog (s : State) (r : Word) : (s.complete r).prog = s.prog := rfl
@[simp] theorem State.complete_msg (s : State) (r : Word) : (s.complete r).msg = s.msg := rfl
@[simp] theorem State.complete_sb (s : State) (r : Word) : (s.complete r).sb = s.sb := rfl
@[simp] theorem State.complete_mem (s : State) (r : Word) : (s.complete r).mem = s.mem := rfl
@[simp] theorem State.complete_cmdReg (s : State) (r : Word) :
    (s.complete r).cmdReg = s.cmdReg := rfl
@[simp] theorem State.complete_mapBase (s : State) (r : Word) :
    (s.complete r).mapBase = s.mapBase := rfl
@[simp] theorem State.complete_mapBytes (s : State) (r : Word) :
    (s.complete r).mapBytes = s.mapBytes := rfl
@[simp] theorem State.complete_cproto (s : State) (r : Word) :
    (s.complete r).cproto = s.cproto := rfl
@[simp] theorem State.complete_consumer (s : State) (r : Word) :
    (s.complete r).consumer = s.consumer := rfl
@[simp] theorem State.complete_buf (s : State) (r : Word) : (s.complete r).buf = s.buf := rfl
@[simp] theorem State.complete_emitted (s : State) (r : Word) :
    (s.complete r).emitted = s.emitted := rfl
@[simp] theorem State.complete_hostSeen (s : State) (r : Word) :
    (s.complete r).hostSeen = s.hostSeen := rfl
@[simp] theorem State.complete_turns (s : State) (r : Word) : (s.complete r).turns = s.turns := rfl

/-! ### `raise` -/

@[simp] theorem State.raise_pc (s : State) (c : Cause) : (s.raise c).pc = s.pc := rfl
@[simp] theorem State.raise_v (s : State) (c : Cause) : (s.raise c).v = s.v := rfl
@[simp] theorem State.raise_j (s : State) (c : Cause) : (s.raise c).j = s.j := rfl
@[simp] theorem State.raise_res (s : State) (c : Cause) : (s.raise c).res = s.res := rfl
@[simp] theorem State.raise_fc (s : State) (c : Cause) : (s.raise c).fc = s.fc := rfl
@[simp] theorem State.raise_wcnt (s : State) (c : Cause) : (s.raise c).wcnt = s.wcnt := rfl
@[simp] theorem State.raise_offset (s : State) (c : Cause) : (s.raise c).offset = s.offset := rfl
@[simp] theorem State.raise_old (s : State) (c : Cause) : (s.raise c).old = s.old := rfl
@[simp] theorem State.raise_cur (s : State) (c : Cause) : (s.raise c).cur = s.cur := rfl
@[simp] theorem State.raise_new (s : State) (c : Cause) : (s.raise c).new = s.new := rfl
@[simp] theorem State.raise_phase (s : State) (c : Cause) : (s.raise c).phase = s.phase := rfl
@[simp] theorem State.raise_halted (s : State) (c : Cause) : (s.raise c).halted = true := rfl
@[simp] theorem State.raise_fault (s : State) (c : Cause) : (s.raise c).fault = true := rfl
@[simp] theorem State.raise_waiting (s : State) (c : Cause) : (s.raise c).waiting = false := rfl
@[simp] theorem State.raise_cause (s : State) (c : Cause) : (s.raise c).cause = c.code := rfl
@[simp] theorem State.raise_faultpc (s : State) (c : Cause) : (s.raise c).faultpc = s.pc := rfl
@[simp] theorem State.raise_base (s : State) (c : Cause) : (s.raise c).base = s.base := rfl
@[simp] theorem State.raise_waitlim (s : State) (c : Cause) : (s.raise c).waitlim = s.waitlim := rfl
@[simp] theorem State.raise_msglen (s : State) (c : Cause) : (s.raise c).msglen = s.msglen := rfl
@[simp] theorem State.raise_prog (s : State) (c : Cause) : (s.raise c).prog = s.prog := rfl
@[simp] theorem State.raise_msg (s : State) (c : Cause) : (s.raise c).msg = s.msg := rfl
@[simp] theorem State.raise_sb (s : State) (c : Cause) : (s.raise c).sb = s.sb := rfl
@[simp] theorem State.raise_mem (s : State) (c : Cause) : (s.raise c).mem = s.mem := rfl
@[simp] theorem State.raise_cmdReg (s : State) (c : Cause) : (s.raise c).cmdReg = s.cmdReg := rfl
@[simp] theorem State.raise_mapBase (s : State) (c : Cause) : (s.raise c).mapBase = s.mapBase := rfl
@[simp] theorem State.raise_mapBytes (s : State) (c : Cause) :
    (s.raise c).mapBytes = s.mapBytes := rfl
@[simp] theorem State.raise_cproto (s : State) (c : Cause) : (s.raise c).cproto = s.cproto := rfl
@[simp] theorem State.raise_consumer (s : State) (c : Cause) :
    (s.raise c).consumer = s.consumer := rfl
@[simp] theorem State.raise_buf (s : State) (c : Cause) : (s.raise c).buf = s.buf := rfl
@[simp] theorem State.raise_emitted (s : State) (c : Cause) : (s.raise c).emitted = s.emitted := rfl
@[simp] theorem State.raise_hostSeen (s : State) (c : Cause) :
    (s.raise c).hostSeen = s.hostSeen := rfl
@[simp] theorem State.raise_turns (s : State) (c : Cause) : (s.raise c).turns = s.turns := rfl

/-! ### `enqueue` -/

@[simp] theorem State.enqueue_pc (s : State) (es : List PendingStore) :
    (s.enqueue es).pc = s.pc := rfl
@[simp] theorem State.enqueue_v (s : State) (es : List PendingStore) : (s.enqueue es).v = s.v := rfl
@[simp] theorem State.enqueue_j (s : State) (es : List PendingStore) : (s.enqueue es).j = s.j := rfl
@[simp] theorem State.enqueue_res (s : State) (es : List PendingStore) :
    (s.enqueue es).res = s.res := rfl
@[simp] theorem State.enqueue_fc (s : State) (es : List PendingStore) :
    (s.enqueue es).fc = s.fc := rfl
@[simp] theorem State.enqueue_wcnt (s : State) (es : List PendingStore) :
    (s.enqueue es).wcnt = s.wcnt := rfl
@[simp] theorem State.enqueue_offset (s : State) (es : List PendingStore) :
    (s.enqueue es).offset = s.offset := rfl
@[simp] theorem State.enqueue_old (s : State) (es : List PendingStore) :
    (s.enqueue es).old = s.old := rfl
@[simp] theorem State.enqueue_cur (s : State) (es : List PendingStore) :
    (s.enqueue es).cur = s.cur := rfl
@[simp] theorem State.enqueue_new (s : State) (es : List PendingStore) :
    (s.enqueue es).new = s.new := rfl
@[simp] theorem State.enqueue_phase (s : State) (es : List PendingStore) :
    (s.enqueue es).phase = s.phase := rfl
@[simp] theorem State.enqueue_halted (s : State) (es : List PendingStore) :
    (s.enqueue es).halted = s.halted := rfl
@[simp] theorem State.enqueue_fault (s : State) (es : List PendingStore) :
    (s.enqueue es).fault = s.fault := rfl
@[simp] theorem State.enqueue_waiting (s : State) (es : List PendingStore) :
    (s.enqueue es).waiting = s.waiting := rfl
@[simp] theorem State.enqueue_cause (s : State) (es : List PendingStore) :
    (s.enqueue es).cause = s.cause := rfl
@[simp] theorem State.enqueue_faultpc (s : State) (es : List PendingStore) :
    (s.enqueue es).faultpc = s.faultpc := rfl
@[simp] theorem State.enqueue_base (s : State) (es : List PendingStore) :
    (s.enqueue es).base = s.base := rfl
@[simp] theorem State.enqueue_waitlim (s : State) (es : List PendingStore) :
    (s.enqueue es).waitlim = s.waitlim := rfl
@[simp] theorem State.enqueue_msglen (s : State) (es : List PendingStore) :
    (s.enqueue es).msglen = s.msglen := rfl
@[simp] theorem State.enqueue_prog (s : State) (es : List PendingStore) :
    (s.enqueue es).prog = s.prog := rfl
@[simp] theorem State.enqueue_msg (s : State) (es : List PendingStore) :
    (s.enqueue es).msg = s.msg := rfl
@[simp] theorem State.enqueue_sb (s : State) (es : List PendingStore) :
    (s.enqueue es).sb = s.sb ++ es := rfl
@[simp] theorem State.enqueue_mem (s : State) (es : List PendingStore) :
    (s.enqueue es).mem = s.mem := rfl
@[simp] theorem State.enqueue_cmdReg (s : State) (es : List PendingStore) :
    (s.enqueue es).cmdReg = s.cmdReg := rfl
@[simp] theorem State.enqueue_mapBase (s : State) (es : List PendingStore) :
    (s.enqueue es).mapBase = s.mapBase := rfl
@[simp] theorem State.enqueue_mapBytes (s : State) (es : List PendingStore) :
    (s.enqueue es).mapBytes = s.mapBytes := rfl
@[simp] theorem State.enqueue_cproto (s : State) (es : List PendingStore) :
    (s.enqueue es).cproto = s.cproto := rfl
@[simp] theorem State.enqueue_consumer (s : State) (es : List PendingStore) :
    (s.enqueue es).consumer = s.consumer := rfl
@[simp] theorem State.enqueue_buf (s : State) (es : List PendingStore) :
    (s.enqueue es).buf = s.buf := rfl
@[simp] theorem State.enqueue_emitted (s : State) (es : List PendingStore) :
    (s.enqueue es).emitted = s.emitted := rfl
@[simp] theorem State.enqueue_hostSeen (s : State) (es : List PendingStore) :
    (s.enqueue es).hostSeen = s.hostSeen := rfl
@[simp] theorem State.enqueue_turns (s : State) (es : List PendingStore) :
    (s.enqueue es).turns = s.turns := rfl

/-! ### `afterTurn` -/

@[simp] theorem State.afterTurn_pc (s : State) : (s.afterTurn).pc = s.pc := rfl
@[simp] theorem State.afterTurn_v (s : State) : (s.afterTurn).v = s.v := rfl
@[simp] theorem State.afterTurn_j (s : State) : (s.afterTurn).j = s.j := rfl
@[simp] theorem State.afterTurn_res (s : State) : (s.afterTurn).res = s.res := rfl
@[simp] theorem State.afterTurn_fc (s : State) : (s.afterTurn).fc = s.fc := rfl
@[simp] theorem State.afterTurn_wcnt (s : State) : (s.afterTurn).wcnt = s.wcnt := rfl
@[simp] theorem State.afterTurn_offset (s : State) : (s.afterTurn).offset = s.offset := rfl
@[simp] theorem State.afterTurn_old (s : State) : (s.afterTurn).old = s.old := rfl
@[simp] theorem State.afterTurn_cur (s : State) : (s.afterTurn).cur = s.cur := rfl
@[simp] theorem State.afterTurn_new (s : State) : (s.afterTurn).new = s.new := rfl
@[simp] theorem State.afterTurn_phase (s : State) : (s.afterTurn).phase = s.phase := rfl
@[simp] theorem State.afterTurn_halted (s : State) : (s.afterTurn).halted = s.halted := rfl
@[simp] theorem State.afterTurn_fault (s : State) : (s.afterTurn).fault = s.fault := rfl
@[simp] theorem State.afterTurn_waiting (s : State) : (s.afterTurn).waiting = s.waiting := rfl
@[simp] theorem State.afterTurn_cause (s : State) : (s.afterTurn).cause = s.cause := rfl
@[simp] theorem State.afterTurn_faultpc (s : State) : (s.afterTurn).faultpc = s.faultpc := rfl
@[simp] theorem State.afterTurn_base (s : State) : (s.afterTurn).base = s.base := rfl
@[simp] theorem State.afterTurn_waitlim (s : State) : (s.afterTurn).waitlim = s.waitlim := rfl
@[simp] theorem State.afterTurn_msglen (s : State) : (s.afterTurn).msglen = s.msglen := rfl
@[simp] theorem State.afterTurn_prog (s : State) : (s.afterTurn).prog = s.prog := rfl
@[simp] theorem State.afterTurn_msg (s : State) : (s.afterTurn).msg = s.msg := rfl
@[simp] theorem State.afterTurn_sb (s : State) : (s.afterTurn).sb = s.sb := rfl
@[simp] theorem State.afterTurn_mem (s : State) : (s.afterTurn).mem = s.mem := rfl
@[simp] theorem State.afterTurn_cmdReg (s : State) : (s.afterTurn).cmdReg = s.cmdReg := rfl
@[simp] theorem State.afterTurn_mapBase (s : State) : (s.afterTurn).mapBase = s.mapBase := rfl
@[simp] theorem State.afterTurn_mapBytes (s : State) : (s.afterTurn).mapBytes = s.mapBytes := rfl
@[simp] theorem State.afterTurn_cproto (s : State) : (s.afterTurn).cproto = s.cproto := rfl
@[simp] theorem State.afterTurn_consumer (s : State) : (s.afterTurn).consumer = s.consumer := rfl
@[simp] theorem State.afterTurn_buf (s : State) : (s.afterTurn).buf = s.buf := rfl
@[simp] theorem State.afterTurn_emitted (s : State) : (s.afterTurn).emitted = s.emitted := rfl
@[simp] theorem State.afterTurn_hostSeen (s : State) : (s.afterTurn).hostSeen = s.hostSeen := rfl
@[simp] theorem State.afterTurn_turns (s : State) : (s.afterTurn).turns = s.turns.tail := rfl

/-! ### `beginBlock` -/

@[simp] theorem State.beginBlock_pc (s : State) (a : Word) : (s.beginBlock a).pc = s.pc := rfl
@[simp] theorem State.beginBlock_v (s : State) (a : Word) : (s.beginBlock a).v = s.v := rfl
@[simp] theorem State.beginBlock_j (s : State) (a : Word) : (s.beginBlock a).j = s.j := rfl
@[simp] theorem State.beginBlock_res (s : State) (a : Word) : (s.beginBlock a).res = s.res := rfl
@[simp] theorem State.beginBlock_fc (s : State) (a : Word) : (s.beginBlock a).fc = s.fc := rfl
@[simp] theorem State.beginBlock_wcnt (s : State) (a : Word) : (s.beginBlock a).wcnt = s.wcnt := rfl
@[simp] theorem State.beginBlock_offset (s : State) (a : Word) :
    (s.beginBlock a).offset = s.offset := rfl
@[simp] theorem State.beginBlock_old (s : State) (a : Word) : (s.beginBlock a).old = s.old := rfl
@[simp] theorem State.beginBlock_cur (s : State) (a : Word) : (s.beginBlock a).cur = s.cur := rfl
@[simp] theorem State.beginBlock_new (s : State) (a : Word) : (s.beginBlock a).new = s.new := rfl
@[simp] theorem State.beginBlock_phase (s : State) (a : Word) :
    (s.beginBlock a).phase = s.phase := rfl
@[simp] theorem State.beginBlock_halted (s : State) (a : Word) :
    (s.beginBlock a).halted = s.halted := rfl
@[simp] theorem State.beginBlock_fault (s : State) (a : Word) :
    (s.beginBlock a).fault = s.fault := rfl
@[simp] theorem State.beginBlock_waiting (s : State) (a : Word) :
    (s.beginBlock a).waiting = s.waiting := rfl
@[simp] theorem State.beginBlock_cause (s : State) (a : Word) :
    (s.beginBlock a).cause = s.cause := rfl
@[simp] theorem State.beginBlock_faultpc (s : State) (a : Word) :
    (s.beginBlock a).faultpc = s.faultpc := rfl
@[simp] theorem State.beginBlock_base (s : State) (a : Word) : (s.beginBlock a).base = s.base := rfl
@[simp] theorem State.beginBlock_waitlim (s : State) (a : Word) :
    (s.beginBlock a).waitlim = s.waitlim := rfl
@[simp] theorem State.beginBlock_msglen (s : State) (a : Word) :
    (s.beginBlock a).msglen = s.msglen := rfl
@[simp] theorem State.beginBlock_prog (s : State) (a : Word) : (s.beginBlock a).prog = s.prog := rfl
@[simp] theorem State.beginBlock_msg (s : State) (a : Word) : (s.beginBlock a).msg = s.msg := rfl
@[simp] theorem State.beginBlock_sb (s : State) (a : Word) : (s.beginBlock a).sb = s.sb := rfl
@[simp] theorem State.beginBlock_mem (s : State) (a : Word) : (s.beginBlock a).mem = s.mem := rfl
@[simp] theorem State.beginBlock_cmdReg (s : State) (a : Word) :
    (s.beginBlock a).cmdReg = s.cmdReg := rfl
@[simp] theorem State.beginBlock_mapBase (s : State) (a : Word) :
    (s.beginBlock a).mapBase = s.mapBase := rfl
@[simp] theorem State.beginBlock_mapBytes (s : State) (a : Word) :
    (s.beginBlock a).mapBytes = s.mapBytes := rfl
@[simp] theorem State.beginBlock_cproto (s : State) (a : Word) :
    (s.beginBlock a).cproto = s.cproto := rfl
@[simp] theorem State.beginBlock_consumer (s : State) (a : Word) :
    (s.beginBlock a).consumer = .reading a 0 := rfl
@[simp] theorem State.beginBlock_buf (s : State) (a : Word) : (s.beginBlock a).buf = [] := rfl
@[simp] theorem State.beginBlock_emitted (s : State) (a : Word) :
    (s.beginBlock a).emitted = s.emitted := rfl
@[simp] theorem State.beginBlock_hostSeen (s : State) (a : Word) :
    (s.beginBlock a).hostSeen = s.hostSeen := rfl
@[simp] theorem State.beginBlock_turns (s : State) (a : Word) :
    (s.beginBlock a).turns = s.turns := rfl

/-! ### `emitBlock` -/

@[simp] theorem State.emitBlock_pc (s : State) : (s.emitBlock).pc = s.pc := rfl
@[simp] theorem State.emitBlock_v (s : State) : (s.emitBlock).v = s.v := rfl
@[simp] theorem State.emitBlock_j (s : State) : (s.emitBlock).j = s.j := rfl
@[simp] theorem State.emitBlock_res (s : State) : (s.emitBlock).res = s.res := rfl
@[simp] theorem State.emitBlock_fc (s : State) : (s.emitBlock).fc = s.fc := rfl
@[simp] theorem State.emitBlock_wcnt (s : State) : (s.emitBlock).wcnt = s.wcnt := rfl
@[simp] theorem State.emitBlock_offset (s : State) : (s.emitBlock).offset = s.offset := rfl
@[simp] theorem State.emitBlock_old (s : State) : (s.emitBlock).old = s.old := rfl
@[simp] theorem State.emitBlock_cur (s : State) : (s.emitBlock).cur = s.cur := rfl
@[simp] theorem State.emitBlock_new (s : State) : (s.emitBlock).new = s.new := rfl
@[simp] theorem State.emitBlock_phase (s : State) : (s.emitBlock).phase = s.phase := rfl
@[simp] theorem State.emitBlock_halted (s : State) : (s.emitBlock).halted = s.halted := rfl
@[simp] theorem State.emitBlock_fault (s : State) : (s.emitBlock).fault = s.fault := rfl
@[simp] theorem State.emitBlock_waiting (s : State) : (s.emitBlock).waiting = s.waiting := rfl
@[simp] theorem State.emitBlock_cause (s : State) : (s.emitBlock).cause = s.cause := rfl
@[simp] theorem State.emitBlock_faultpc (s : State) : (s.emitBlock).faultpc = s.faultpc := rfl
@[simp] theorem State.emitBlock_base (s : State) : (s.emitBlock).base = s.base := rfl
@[simp] theorem State.emitBlock_waitlim (s : State) : (s.emitBlock).waitlim = s.waitlim := rfl
@[simp] theorem State.emitBlock_msglen (s : State) : (s.emitBlock).msglen = s.msglen := rfl
@[simp] theorem State.emitBlock_prog (s : State) : (s.emitBlock).prog = s.prog := rfl
@[simp] theorem State.emitBlock_msg (s : State) : (s.emitBlock).msg = s.msg := rfl
@[simp] theorem State.emitBlock_sb (s : State) : (s.emitBlock).sb = s.sb := rfl
@[simp] theorem State.emitBlock_mem (s : State) : (s.emitBlock).mem = s.mem := rfl
@[simp] theorem State.emitBlock_cmdReg (s : State) : (s.emitBlock).cmdReg = s.cmdReg := rfl
@[simp] theorem State.emitBlock_mapBase (s : State) : (s.emitBlock).mapBase = s.mapBase := rfl
@[simp] theorem State.emitBlock_mapBytes (s : State) : (s.emitBlock).mapBytes = s.mapBytes := rfl
@[simp] theorem State.emitBlock_cproto (s : State) : (s.emitBlock).cproto = s.cproto := rfl
@[simp] theorem State.emitBlock_consumer (s : State) : (s.emitBlock).consumer = .idle := rfl
@[simp] theorem State.emitBlock_buf (s : State) : (s.emitBlock).buf = s.buf := rfl
@[simp] theorem State.emitBlock_emitted (s : State) :
    (s.emitBlock).emitted = s.emitted ++ [s.buf] := rfl
@[simp] theorem State.emitBlock_hostSeen (s : State) : (s.emitBlock).hostSeen = s.hostSeen := rfl
@[simp] theorem State.emitBlock_turns (s : State) : (s.emitBlock).turns = s.turns := rfl

/-! ### `consumerRead` -/

@[simp] theorem State.consumerRead_pc (s : State) (a : Word) (k : Nat) :
    (s.consumerRead a k).pc = s.pc := rfl
@[simp] theorem State.consumerRead_v (s : State) (a : Word) (k : Nat) :
    (s.consumerRead a k).v = s.v := rfl
@[simp] theorem State.consumerRead_j (s : State) (a : Word) (k : Nat) :
    (s.consumerRead a k).j = s.j := rfl
@[simp] theorem State.consumerRead_res (s : State) (a : Word) (k : Nat) :
    (s.consumerRead a k).res = s.res := rfl
@[simp] theorem State.consumerRead_fc (s : State) (a : Word) (k : Nat) :
    (s.consumerRead a k).fc = s.fc := rfl
@[simp] theorem State.consumerRead_wcnt (s : State) (a : Word) (k : Nat) :
    (s.consumerRead a k).wcnt = s.wcnt := rfl
@[simp] theorem State.consumerRead_offset (s : State) (a : Word) (k : Nat) :
    (s.consumerRead a k).offset = s.offset := rfl
@[simp] theorem State.consumerRead_old (s : State) (a : Word) (k : Nat) :
    (s.consumerRead a k).old = s.old := rfl
@[simp] theorem State.consumerRead_cur (s : State) (a : Word) (k : Nat) :
    (s.consumerRead a k).cur = s.cur := rfl
@[simp] theorem State.consumerRead_new (s : State) (a : Word) (k : Nat) :
    (s.consumerRead a k).new = s.new := rfl
@[simp] theorem State.consumerRead_phase (s : State) (a : Word) (k : Nat) :
    (s.consumerRead a k).phase = s.phase := rfl
@[simp] theorem State.consumerRead_halted (s : State) (a : Word) (k : Nat) :
    (s.consumerRead a k).halted = s.halted := rfl
@[simp] theorem State.consumerRead_fault (s : State) (a : Word) (k : Nat) :
    (s.consumerRead a k).fault = s.fault := rfl
@[simp] theorem State.consumerRead_waiting (s : State) (a : Word) (k : Nat) :
    (s.consumerRead a k).waiting = s.waiting := rfl
@[simp] theorem State.consumerRead_cause (s : State) (a : Word) (k : Nat) :
    (s.consumerRead a k).cause = s.cause := rfl
@[simp] theorem State.consumerRead_faultpc (s : State) (a : Word) (k : Nat) :
    (s.consumerRead a k).faultpc = s.faultpc := rfl
@[simp] theorem State.consumerRead_base (s : State) (a : Word) (k : Nat) :
    (s.consumerRead a k).base = s.base := rfl
@[simp] theorem State.consumerRead_waitlim (s : State) (a : Word) (k : Nat) :
    (s.consumerRead a k).waitlim = s.waitlim := rfl
@[simp] theorem State.consumerRead_msglen (s : State) (a : Word) (k : Nat) :
    (s.consumerRead a k).msglen = s.msglen := rfl
@[simp] theorem State.consumerRead_prog (s : State) (a : Word) (k : Nat) :
    (s.consumerRead a k).prog = s.prog := rfl
@[simp] theorem State.consumerRead_msg (s : State) (a : Word) (k : Nat) :
    (s.consumerRead a k).msg = s.msg := rfl
@[simp] theorem State.consumerRead_sb (s : State) (a : Word) (k : Nat) :
    (s.consumerRead a k).sb = s.sb := rfl
@[simp] theorem State.consumerRead_mem (s : State) (a : Word) (k : Nat) :
    (s.consumerRead a k).mem = s.mem := rfl
@[simp] theorem State.consumerRead_cmdReg (s : State) (a : Word) (k : Nat) :
    (s.consumerRead a k).cmdReg = s.cmdReg := rfl
@[simp] theorem State.consumerRead_mapBase (s : State) (a : Word) (k : Nat) :
    (s.consumerRead a k).mapBase = s.mapBase := rfl
@[simp] theorem State.consumerRead_mapBytes (s : State) (a : Word) (k : Nat) :
    (s.consumerRead a k).mapBytes = s.mapBytes := rfl
@[simp] theorem State.consumerRead_cproto (s : State) (a : Word) (k : Nat) :
    (s.consumerRead a k).cproto = s.cproto := rfl
@[simp] theorem State.consumerRead_consumer (s : State) (a : Word) (k : Nat) :
    (s.consumerRead a k).consumer = .reading a (k + 1) := rfl
@[simp] theorem State.consumerRead_buf (s : State) (a : Word) (k : Nat) :
    (s.consumerRead a k).buf = s.buf ++ [s.halfAt (a + address (2 * k))] := rfl
@[simp] theorem State.consumerRead_emitted (s : State) (a : Word) (k : Nat) :
    (s.consumerRead a k).emitted = s.emitted := rfl
@[simp] theorem State.consumerRead_hostSeen (s : State) (a : Word) (k : Nat) :
    (s.consumerRead a k).hostSeen = s.hostSeen := rfl
@[simp] theorem State.consumerRead_turns (s : State) (a : Word) (k : Nat) :
    (s.consumerRead a k).turns = s.turns := rfl

/-! ### `blockReset`: the block state is that of reset, the rest is unchanged -/

@[simp] theorem State.blockReset_pc (s : State) : (s.blockReset).pc = State.reset.pc := rfl
@[simp] theorem State.blockReset_v (s : State) : (s.blockReset).v = State.reset.v := rfl
@[simp] theorem State.blockReset_j (s : State) : (s.blockReset).j = State.reset.j := rfl
@[simp] theorem State.blockReset_res (s : State) : (s.blockReset).res = State.reset.res := rfl
@[simp] theorem State.blockReset_fc (s : State) : (s.blockReset).fc = State.reset.fc := rfl
@[simp] theorem State.blockReset_wcnt (s : State) : (s.blockReset).wcnt = State.reset.wcnt := rfl
@[simp] theorem State.blockReset_offset (s : State) :
    (s.blockReset).offset = State.reset.offset := rfl
@[simp] theorem State.blockReset_old (s : State) : (s.blockReset).old = State.reset.old := rfl
@[simp] theorem State.blockReset_cur (s : State) : (s.blockReset).cur = State.reset.cur := rfl
@[simp] theorem State.blockReset_new (s : State) : (s.blockReset).new = State.reset.new := rfl
@[simp] theorem State.blockReset_phase (s : State) : (s.blockReset).phase = State.reset.phase := rfl
@[simp] theorem State.blockReset_halted (s : State) :
    (s.blockReset).halted = State.reset.halted := rfl
@[simp] theorem State.blockReset_fault (s : State) : (s.blockReset).fault = State.reset.fault := rfl
@[simp] theorem State.blockReset_waiting (s : State) :
    (s.blockReset).waiting = State.reset.waiting := rfl
@[simp] theorem State.blockReset_cause (s : State) : (s.blockReset).cause = State.reset.cause := rfl
@[simp] theorem State.blockReset_faultpc (s : State) :
    (s.blockReset).faultpc = State.reset.faultpc := rfl
@[simp] theorem State.blockReset_base (s : State) : (s.blockReset).base = State.reset.base := rfl
@[simp] theorem State.blockReset_waitlim (s : State) :
    (s.blockReset).waitlim = State.reset.waitlim := rfl
@[simp] theorem State.blockReset_msglen (s : State) :
    (s.blockReset).msglen = State.reset.msglen := rfl
@[simp] theorem State.blockReset_prog (s : State) : (s.blockReset).prog = State.reset.prog := rfl
@[simp] theorem State.blockReset_msg (s : State) : (s.blockReset).msg = State.reset.msg := rfl
@[simp] theorem State.blockReset_sb (s : State) : (s.blockReset).sb = State.reset.sb := rfl
@[simp] theorem State.blockReset_mem (s : State) : (s.blockReset).mem = s.mem := rfl
@[simp] theorem State.blockReset_cmdReg (s : State) : (s.blockReset).cmdReg = s.cmdReg := rfl
@[simp] theorem State.blockReset_mapBase (s : State) : (s.blockReset).mapBase = s.mapBase := rfl
@[simp] theorem State.blockReset_mapBytes (s : State) : (s.blockReset).mapBytes = s.mapBytes := rfl
@[simp] theorem State.blockReset_cproto (s : State) : (s.blockReset).cproto = s.cproto := rfl
@[simp] theorem State.blockReset_consumer (s : State) : (s.blockReset).consumer = s.consumer := rfl
@[simp] theorem State.blockReset_buf (s : State) : (s.blockReset).buf = s.buf := rfl
@[simp] theorem State.blockReset_emitted (s : State) : (s.blockReset).emitted = s.emitted := rfl
@[simp] theorem State.blockReset_hostSeen (s : State) : (s.blockReset).hostSeen = s.hostSeen := rfl
@[simp] theorem State.blockReset_turns (s : State) : (s.blockReset).turns = s.turns := rfl

/-! ### `launch` -/

@[simp] theorem State.launch_pc (s : State) (b : Word) (n : Nat) (p : Protocol) :
    (s.launch b n p).pc = s.pc := rfl
@[simp] theorem State.launch_v (s : State) (b : Word) (n : Nat) (p : Protocol) :
    (s.launch b n p).v = s.v := rfl
@[simp] theorem State.launch_j (s : State) (b : Word) (n : Nat) (p : Protocol) :
    (s.launch b n p).j = s.j := rfl
@[simp] theorem State.launch_res (s : State) (b : Word) (n : Nat) (p : Protocol) :
    (s.launch b n p).res = s.res := rfl
@[simp] theorem State.launch_fc (s : State) (b : Word) (n : Nat) (p : Protocol) :
    (s.launch b n p).fc = s.fc := rfl
@[simp] theorem State.launch_wcnt (s : State) (b : Word) (n : Nat) (p : Protocol) :
    (s.launch b n p).wcnt = s.wcnt := rfl
@[simp] theorem State.launch_offset (s : State) (b : Word) (n : Nat) (p : Protocol) :
    (s.launch b n p).offset = s.offset := rfl
@[simp] theorem State.launch_old (s : State) (b : Word) (n : Nat) (p : Protocol) :
    (s.launch b n p).old = s.old := rfl
@[simp] theorem State.launch_cur (s : State) (b : Word) (n : Nat) (p : Protocol) :
    (s.launch b n p).cur = s.cur := rfl
@[simp] theorem State.launch_new (s : State) (b : Word) (n : Nat) (p : Protocol) :
    (s.launch b n p).new = s.new := rfl
@[simp] theorem State.launch_phase (s : State) (b : Word) (n : Nat) (p : Protocol) :
    (s.launch b n p).phase = s.phase := rfl
@[simp] theorem State.launch_halted (s : State) (b : Word) (n : Nat) (p : Protocol) :
    (s.launch b n p).halted = s.halted := rfl
@[simp] theorem State.launch_fault (s : State) (b : Word) (n : Nat) (p : Protocol) :
    (s.launch b n p).fault = s.fault := rfl
@[simp] theorem State.launch_waiting (s : State) (b : Word) (n : Nat) (p : Protocol) :
    (s.launch b n p).waiting = s.waiting := rfl
@[simp] theorem State.launch_cause (s : State) (b : Word) (n : Nat) (p : Protocol) :
    (s.launch b n p).cause = s.cause := rfl
@[simp] theorem State.launch_faultpc (s : State) (b : Word) (n : Nat) (p : Protocol) :
    (s.launch b n p).faultpc = s.faultpc := rfl
@[simp] theorem State.launch_base (s : State) (b : Word) (n : Nat) (p : Protocol) :
    (s.launch b n p).base = s.base := rfl
@[simp] theorem State.launch_waitlim (s : State) (b : Word) (n : Nat) (p : Protocol) :
    (s.launch b n p).waitlim = s.waitlim := rfl
@[simp] theorem State.launch_msglen (s : State) (b : Word) (n : Nat) (p : Protocol) :
    (s.launch b n p).msglen = s.msglen := rfl
@[simp] theorem State.launch_prog (s : State) (b : Word) (n : Nat) (p : Protocol) :
    (s.launch b n p).prog = s.prog := rfl
@[simp] theorem State.launch_msg (s : State) (b : Word) (n : Nat) (p : Protocol) :
    (s.launch b n p).msg = s.msg := rfl
@[simp] theorem State.launch_sb (s : State) (b : Word) (n : Nat) (p : Protocol) :
    (s.launch b n p).sb = s.sb := rfl
@[simp] theorem State.launch_mem (s : State) (b : Word) (n : Nat) (p : Protocol) :
    (s.launch b n p).mem = s.mem.writeHalf b (s.halfAt b &&& 0xFEFF#16) := rfl
@[simp] theorem State.launch_cmdReg (s : State) (b : Word) (n : Nat) (p : Protocol) :
    (s.launch b n p).cmdReg = 0#32 := rfl
@[simp] theorem State.launch_mapBase (s : State) (b : Word) (n : Nat) (p : Protocol) :
    (s.launch b n p).mapBase = b := rfl
@[simp] theorem State.launch_mapBytes (s : State) (b : Word) (n : Nat) (p : Protocol) :
    (s.launch b n p).mapBytes = n := rfl
@[simp] theorem State.launch_cproto (s : State) (b : Word) (n : Nat) (p : Protocol) :
    (s.launch b n p).cproto = p := rfl
@[simp] theorem State.launch_consumer (s : State) (b : Word) (n : Nat) (p : Protocol) :
    (s.launch b n p).consumer = .idle := rfl
@[simp] theorem State.launch_buf (s : State) (b : Word) (n : Nat) (p : Protocol) :
    (s.launch b n p).buf = [] := rfl
@[simp] theorem State.launch_emitted (s : State) (b : Word) (n : Nat) (p : Protocol) :
    (s.launch b n p).emitted = s.emitted := rfl
@[simp] theorem State.launch_hostSeen (s : State) (b : Word) (n : Nat) (p : Protocol) :
    (s.launch b n p).hostSeen = s.hostSeen := rfl
@[simp] theorem State.launch_turns (s : State) (b : Word) (n : Nat) (p : Protocol) :
    (s.launch b n p).turns = s.turns := rfl

/-! ### `perform`, but for shared memory -/

@[simp] theorem State.perform_pc (s : State) (e : PendingStore) : (s.perform e).pc = s.pc := by cases e <;> rfl
@[simp] theorem State.perform_v (s : State) (e : PendingStore) : (s.perform e).v = s.v := by cases e <;> rfl
@[simp] theorem State.perform_j (s : State) (e : PendingStore) : (s.perform e).j = s.j := by cases e <;> rfl
@[simp] theorem State.perform_res (s : State) (e : PendingStore) : (s.perform e).res = s.res := by cases e <;> rfl
@[simp] theorem State.perform_fc (s : State) (e : PendingStore) : (s.perform e).fc = s.fc := by cases e <;> rfl
@[simp] theorem State.perform_wcnt (s : State) (e : PendingStore) :
    (s.perform e).wcnt = s.wcnt := by cases e <;> rfl
@[simp] theorem State.perform_offset (s : State) (e : PendingStore) :
    (s.perform e).offset = s.offset := by cases e <;> rfl
@[simp] theorem State.perform_old (s : State) (e : PendingStore) : (s.perform e).old = s.old := by cases e <;> rfl
@[simp] theorem State.perform_cur (s : State) (e : PendingStore) : (s.perform e).cur = s.cur := by cases e <;> rfl
@[simp] theorem State.perform_new (s : State) (e : PendingStore) : (s.perform e).new = s.new := by cases e <;> rfl
@[simp] theorem State.perform_phase (s : State) (e : PendingStore) :
    (s.perform e).phase = s.phase := by cases e <;> rfl
@[simp] theorem State.perform_halted (s : State) (e : PendingStore) :
    (s.perform e).halted = s.halted := by cases e <;> rfl
@[simp] theorem State.perform_fault (s : State) (e : PendingStore) :
    (s.perform e).fault = s.fault := by cases e <;> rfl
@[simp] theorem State.perform_waiting (s : State) (e : PendingStore) :
    (s.perform e).waiting = s.waiting := by cases e <;> rfl
@[simp] theorem State.perform_cause (s : State) (e : PendingStore) :
    (s.perform e).cause = s.cause := by cases e <;> rfl
@[simp] theorem State.perform_faultpc (s : State) (e : PendingStore) :
    (s.perform e).faultpc = s.faultpc := by cases e <;> rfl
@[simp] theorem State.perform_base (s : State) (e : PendingStore) :
    (s.perform e).base = s.base := by cases e <;> rfl
@[simp] theorem State.perform_waitlim (s : State) (e : PendingStore) :
    (s.perform e).waitlim = s.waitlim := by cases e <;> rfl
@[simp] theorem State.perform_msglen (s : State) (e : PendingStore) :
    (s.perform e).msglen = s.msglen := by cases e <;> rfl
@[simp] theorem State.perform_prog (s : State) (e : PendingStore) :
    (s.perform e).prog = s.prog := by cases e <;> rfl
@[simp] theorem State.perform_msg (s : State) (e : PendingStore) : (s.perform e).msg = s.msg := by cases e <;> rfl
@[simp] theorem State.perform_sb (s : State) (e : PendingStore) : (s.perform e).sb = s.sb := by cases e <;> rfl
@[simp] theorem State.perform_mapBase (s : State) (e : PendingStore) :
    (s.perform e).mapBase = s.mapBase := by cases e <;> rfl
@[simp] theorem State.perform_mapBytes (s : State) (e : PendingStore) :
    (s.perform e).mapBytes = s.mapBytes := by cases e <;> rfl
@[simp] theorem State.perform_cproto (s : State) (e : PendingStore) :
    (s.perform e).cproto = s.cproto := by cases e <;> rfl
@[simp] theorem State.perform_consumer (s : State) (e : PendingStore) :
    (s.perform e).consumer = s.consumer := by cases e <;> rfl
@[simp] theorem State.perform_buf (s : State) (e : PendingStore) : (s.perform e).buf = s.buf := by cases e <;> rfl
@[simp] theorem State.perform_emitted (s : State) (e : PendingStore) :
    (s.perform e).emitted = s.emitted := by cases e <;> rfl
@[simp] theorem State.perform_hostSeen (s : State) (e : PendingStore) :
    (s.perform e).hostSeen = s.hostSeen := by cases e <;> rfl
@[simp] theorem State.perform_turns (s : State) (e : PendingStore) :
    (s.perform e).turns = s.turns := by cases e <;> rfl

@[simp] theorem State.perform_data_mem (s : State) (a : Word) (h : Half) :
    (s.perform (.data a h)).mem = s.mem.writeHalf a h := rfl
@[simp] theorem State.perform_data_cmdReg (s : State) (a : Word) (h : Half) :
    (s.perform (.data a h)).cmdReg = s.cmdReg := rfl
@[simp] theorem State.perform_cmd_mem (s : State) (w : Word) : (s.perform (.cmd w)).mem = s.mem := rfl
@[simp] theorem State.perform_cmd_cmdReg (s : State) (w : Word) : (s.perform (.cmd w)).cmdReg = w := rfl

/-! ### `transition` -/

@[simp] theorem State.transition_pc (s : State) : (s.transition).pc = s.pc := rfl
@[simp] theorem State.transition_v (s : State) :
    (s.transition).v = variantIndex (if s.new then s.phase else !s.phase) (!s.new) (!s.msgBit s.nextOffset) := rfl
@[simp] theorem State.transition_j (s : State) : (s.transition).j = s.j := rfl
@[simp] theorem State.transition_res (s : State) : (s.transition).res = s.res := rfl
@[simp] theorem State.transition_fc (s : State) : (s.transition).fc = s.fc := rfl
@[simp] theorem State.transition_wcnt (s : State) : (s.transition).wcnt = s.wcnt := rfl
@[simp] theorem State.transition_offset (s : State) : (s.transition).offset = s.nextOffset := rfl
@[simp] theorem State.transition_old (s : State) : (s.transition).old = s.cur := rfl
@[simp] theorem State.transition_cur (s : State) : (s.transition).cur = s.new := rfl
@[simp] theorem State.transition_new (s : State) : (s.transition).new = s.msgBit s.nextOffset := rfl
@[simp] theorem State.transition_phase (s : State) :
    (s.transition).phase = if s.new then s.phase else !s.phase := rfl
@[simp] theorem State.transition_halted (s : State) : (s.transition).halted = s.halted := rfl
@[simp] theorem State.transition_fault (s : State) : (s.transition).fault = s.fault := rfl
@[simp] theorem State.transition_waiting (s : State) : (s.transition).waiting = s.waiting := rfl
@[simp] theorem State.transition_cause (s : State) : (s.transition).cause = s.cause := rfl
@[simp] theorem State.transition_faultpc (s : State) : (s.transition).faultpc = s.faultpc := rfl
@[simp] theorem State.transition_base (s : State) : (s.transition).base = s.base := rfl
@[simp] theorem State.transition_waitlim (s : State) : (s.transition).waitlim = s.waitlim := rfl
@[simp] theorem State.transition_msglen (s : State) : (s.transition).msglen = s.msglen := rfl
@[simp] theorem State.transition_prog (s : State) : (s.transition).prog = s.prog := rfl
@[simp] theorem State.transition_msg (s : State) : (s.transition).msg = s.msg := rfl
@[simp] theorem State.transition_sb (s : State) : (s.transition).sb = s.sb := rfl
@[simp] theorem State.transition_mem (s : State) : (s.transition).mem = s.mem := rfl
@[simp] theorem State.transition_cmdReg (s : State) : (s.transition).cmdReg = s.cmdReg := rfl
@[simp] theorem State.transition_mapBase (s : State) : (s.transition).mapBase = s.mapBase := rfl
@[simp] theorem State.transition_mapBytes (s : State) : (s.transition).mapBytes = s.mapBytes := rfl
@[simp] theorem State.transition_cproto (s : State) : (s.transition).cproto = s.cproto := rfl
@[simp] theorem State.transition_consumer (s : State) : (s.transition).consumer = s.consumer := rfl
@[simp] theorem State.transition_buf (s : State) : (s.transition).buf = s.buf := rfl
@[simp] theorem State.transition_emitted (s : State) : (s.transition).emitted = s.emitted := rfl
@[simp] theorem State.transition_hostSeen (s : State) : (s.transition).hostSeen = s.hostSeen := rfl
@[simp] theorem State.transition_turns (s : State) : (s.transition).turns = s.turns := rfl

end Sys2Proof.Machine
end

