-- ==== Sys2Proof/Laws/Memory.lean ====
section
/-! SUPPORT. The laws of the data space: read after write, the canonical form, and 16-bit accesses. -/

namespace Sys2Proof.Machine

/-- What a read gives after a write: the written byte at its address, the old one elsewhere. -/
@[simp] theorem Memory.read?_write (m : Memory) (a x : Nat) (b : Byte) :
    (m.write a b).read? x = if x = a then some b else m.read? x := by
  induction m with
  | nil => simp only [Memory.write, Memory.read?, eq_comm]
  | cons c m ih =>
    obtain ⟨y, d⟩ := c
    by_cases h1 : a < y
    · simp only [Memory.write, if_pos h1, Memory.read?, eq_comm]
    · by_cases h2 : a = y
      · subst h2
        simp only [Memory.write, if_neg h1, if_true, Memory.read?, eq_comm]
        split_ifs <;> rfl
      · simp only [Memory.write, if_neg h1, if_neg h2, Memory.read?, ih]
        split_ifs with h3 h4
        · exact absurd (h4.symm.trans h3.symm) h2
        all_goals rfl

/-- Every address listed after a write was listed before or is the written one. -/
theorem Memory.mem_write {m : Memory} {a : Nat} {b : Byte} {c : Host.Cell}
    (h : c ∈ m.write a b) : c = (a, b) ∨ c ∈ m := by
  induction m with
  | nil => simp_all [Memory.write]
  | cons d m ih =>
    obtain ⟨y, e⟩ := d
    simp only [Memory.write] at h
    split_ifs at h with h1 h2
    · simpa using h
    · rcases List.mem_cons.1 h with h | h
      · exact .inl h
      · exact .inr (List.mem_cons_of_mem _ h)
    · rcases List.mem_cons.1 h with h | h
      · exact .inr (h ▸ List.mem_cons_self)
      · exact (ih h).imp_right (List.mem_cons_of_mem _)

/-- A write of one byte inside the address space keeps the canonical form. -/
theorem Memory.wf_write {m : Memory} {a : Nat} {b : Byte} (hm : m.wf) (ha : a < 2 ^ 32) :
    (m.write a b).wf := by
  refine ⟨?_, fun c hc => ?_⟩
  · have hp := hm.1
    clear hm
    induction m with
    | nil => simp [Memory.write]
    | cons d m ih =>
      obtain ⟨y, e⟩ := d
      simp only [List.pairwise_cons] at hp
      simp only [Memory.write]
      split_ifs with h1 h2
      · refine List.pairwise_cons.2 ⟨fun c hc => ?_, List.pairwise_cons.2 hp⟩
        rcases List.mem_cons.1 hc with rfl | hc
        · exact h1
        · exact h1.trans (hp.1 c hc)
      · subst h2
        exact List.pairwise_cons.2 ⟨hp.1, hp.2⟩
      · refine List.pairwise_cons.2 ⟨fun c hc => ?_, ih hp.2⟩
        rcases Memory.mem_write hc with rfl | hc
        · show y < a
          omega
        · exact hp.1 c hc
  · rcases Memory.mem_write hc with rfl | hc
    · exact ha
    · exact hm.2 c hc

/-- A 16-bit write keeps the canonical form. -/
theorem Memory.wf_writeHalf {m : Memory} (a : Word) (h : Half) (hm : m.wf) : (m.writeHalf a h).wf :=
  Memory.wf_write (Memory.wf_write hm a.isLt) (a + 1#32).isLt

/-- The memory of the reset state has the canonical form. -/
theorem State.reset_mem_wf : State.reset.mem.wf := by decide

/-- A byte after a 16-bit write: the high byte at `a + 1`, the low byte at `a`, the old one elsewhere. -/
theorem State.byteAt_writeHalf (s : State) (a : Word) (h : Half) (x : Nat) :
    ({ s with mem := s.mem.writeHalf a h }).byteAt x =
      if x = (a + 1#32).toNat then h.extractLsb' 8 8
      else if x = a.toNat then h.extractLsb' 0 8 else s.byteAt x := by
  simp only [State.byteAt, Memory.writeHalf, Memory.read?_write]
  split_ifs <;> simp

/-- The two bytes of a 16-bit access are distinct. -/
theorem succ_ne_self (a : Word) : a + 1#32 ≠ a := by
  intro h
  have := congrArg BitVec.toNat h
  have := a.isLt
  simp only [BitVec.toNat_add, BitVec.toNat_ofNat] at *
  omega

/-- A value is its high byte followed by its low byte. -/
theorem half_bytes (h : Half) : h.extractLsb' 8 8 ++ h.extractLsb' 0 8 = h := by
  apply BitVec.eq_of_getLsbD_eq
  intro i hi
  simp only [BitVec.getLsbD_append, BitVec.getLsbD_extractLsb']
  by_cases h8 : i < 8
  · simp [h8]
  · have : i - 8 < 8 := by omega
    simp [h8, this, show 8 + (i - 8) = i by omega]

/-- Read after write of 16 bits (20_memory.md R60). -/
@[simp] theorem State.halfAt_writeHalf_self (s : State) (a : Word) (h : Half) :
    ({ s with mem := s.mem.writeHalf a h }).halfAt a = h := by
  have hne : a.toNat ≠ (a + 1#32).toNat := fun e => succ_ne_self a (BitVec.eq_of_toNat_eq e).symm
  simp only [State.halfAt, State.byteAt_writeHalf, hne, if_true, if_false]
  exact half_bytes h

/-- A 16-bit write leaves a 16-bit value that shares no byte with it alone. -/
theorem State.halfAt_writeHalf_other (s : State) (a b : Word) (h : Half)
    (h0 : b ≠ a) (h1 : b ≠ a + 1#32) (h2 : b + 1#32 ≠ a) :
    ({ s with mem := s.mem.writeHalf a h }).halfAt b = s.halfAt b := by
  have e : ∀ {x y : Word}, x ≠ y → x.toNat ≠ y.toNat := fun hxy e => hxy (BitVec.eq_of_toNat_eq e)
  have h3 : b + 1#32 ≠ a + 1#32 := fun e => h0 (by simpa using e)
  simp only [State.halfAt, State.byteAt_writeHalf, e h0, e h1, e h2, e h3, if_false]

/-- Bytes depend on the data space alone. -/
theorem State.byteAt_congr {s t : State} (h : t.mem = s.mem) (a : Nat) : t.byteAt a = s.byteAt a := by
  simp only [State.byteAt, h]

/-- 16-bit values depend on the data space alone. -/
theorem State.halfAt_congr {s t : State} (h : t.mem = s.mem) (a : Word) : t.halfAt a = s.halfAt a := by
  simp only [State.halfAt, State.byteAt_congr h]

end Sys2Proof.Machine
end

