-- ==== Sys2Proof/Laws/Ops.lean ====
section
/-! SUPPORT. One lemma per shared operation that says once everything the operation can do, for proofs to
cite instead of unfolding it. -/

namespace Sys2Proof.Machine

/-! ### Turns and the step -/

/-- A step in the producer's explicit turn. -/
theorem step_producer {s : State} {ts : List Turn} (h : s.turns = .producer :: ts) :
    step s = producerTurn { s with turns := ts } := by
  simp [step, State.nextTurn, State.afterTurn, h, takeTurn]

/-- A step in any explicit turn. -/
theorem step_turn {s : State} {t : Turn} {ts : List Turn} (h : s.turns = t :: ts) :
    step s = takeTurn t { s with turns := ts } := by
  simp [step, State.nextTurn, State.afterTurn, h]

/-- A step with no turn left: the drain's on the oldest entry while a store is pending, else the
producer's. -/
theorem step_no_turn {s : State} (h : s.turns = []) :
    step s = if s.sb = [] then producerTurn s else .next (s.drain 0) := by
  have hs : s.afterTurn = s := by
    cases s
    simp_all [State.afterTurn]
  simp only [step, State.nextTurn, h, hs, State.sbEmpty, List.isEmpty_iff]
  split_ifs <;> simp [takeTurn]

/-- A halted producer has no step. -/
theorem producerTurn_halted {s : State} (h : s.halted = true) : producerTurn s = .next s := by
  simp [producerTurn, h]

/-- A running producer executes what it fetches. -/
theorem producerTurn_ok {s : State} {i : Instr} (h : s.halted = false) (hd : decode s.fetch = .ok i) :
    producerTurn s = exec i s := by
  simp [producerTurn, h, hd]

/-- A running producer that fetches an illegal word raises `ILLEGAL_OP`. -/
theorem producerTurn_error {s : State} {e : DecodeError} (h : s.halted = false)
    (hd : decode s.fetch = .error e) : producerTurn s = .next (s.raise .illegalOp) := by
  simp [producerTurn, h, hd]

/-- Everything the producer's turn can do. -/
theorem producerTurn_cases (s : State) :
    (s.halted = true ∧ producerTurn s = .next s)
    ∨ (s.halted = false ∧ (∃ e, decode s.fetch = .error e)
        ∧ producerTurn s = .next (s.raise .illegalOp))
    ∨ ∃ i, s.halted = false ∧ decode s.fetch = .ok i ∧ producerTurn s = exec i s := by
  cases hh : s.halted
  · cases hd : decode s.fetch with
    | error e => exact .inr (.inl ⟨rfl, ⟨e, rfl⟩, producerTurn_error hh hd⟩)
    | ok i => exact .inr (.inr ⟨i, rfl, rfl, producerTurn_ok hh hd⟩)
  · exact .inl ⟨rfl, producerTurn_halted hh⟩

/-! ### Operands -/

/-- A pass index is out of range from 313 on (60_exceptions.md R252). -/
theorem outOfPasses_iff (j : BitVec 9) : outOfPasses j = true ↔ 313 ≤ j.toNat := decide_eq_true_iff

/-- A pass index below 313 is in range. -/
theorem outOfPasses_of_lt {j : BitVec 9} (h : j.toNat < 313) : outOfPasses j = false := by
  rw [← Bool.not_eq_true, outOfPasses_iff]
  omega

/-- A pass index from 313 on is out of range. -/
theorem outOfPasses_of_le {j : BitVec 9} (h : 313 ≤ j.toNat) : outOfPasses j = true :=
  (outOfPasses_iff j).2 h

/-- What the mapped region does not hold (20_memory.md R66). -/
theorem State.mapped_eq_false (s : State) (a n : Nat) (hn : 0 < n) :
    s.mapped a n = false ↔ ∃ x, a ≤ x ∧ x < a + n
      ∧ ¬ (s.mapBase.toNat ≤ x ∧ x < s.mapBase.toNat + s.mapBytes ∧ x < 2 ^ 32) := by
  have hm : s.mapped a n = true ↔
      s.mapBase.toNat ≤ a ∧ a + n ≤ s.mapBase.toNat + s.mapBytes ∧ a + n ≤ 2 ^ 32 := by
    simp [State.mapped, and_assoc]
  rw [← Bool.not_eq_true, hm]
  constructor
  · intro h
    by_cases h1 : s.mapBase.toNat ≤ a
    · exact ⟨a + n - 1, by omega, by omega, by omega⟩
    · exact ⟨a, by omega, by omega, by omega⟩
  · rintro ⟨x, h1, h2, h3⟩ h
    omega

/-- Two even addresses share no byte of a 16-bit access unless they are equal. -/
theorem even_halves {a b : Word} (ha : a.toNat % 2 = 0) (hb : b.toNat % 2 = 0) :
    b ≠ a + 1#32 ∧ b + 1#32 ≠ a := by
  constructor <;> intro h <;> have := congrArg BitVec.toNat h <;>
    simp only [BitVec.toNat_add, BitVec.toNat_ofNat] at this <;> omega

/-! ### Faults and polls -/

/-- The fault entry, field by field. -/
theorem State.raise_eq_faulted (s : State) (c : Cause) : s.raise c = s.faulted c.code := rfl

/-- Everything a poll can do (44_exchange.md R182). -/
theorem State.poll_cases (s : State) (busy : Bool) :
    (busy = true ∧ s.waitlim ≠ 0#32 ∧ s.waitlim.toNat ≤ nextCount s.wcnt
        ∧ s.poll busy = s.raise .peerUnresponsive)
    ∨ (busy = true ∧ (s.waitlim = 0#32 ∨ nextCount s.wcnt < s.waitlim.toNat)
        ∧ s.poll busy = { s with wcnt := BitVec.ofNat 32 (nextCount s.wcnt), waiting := true })
    ∨ (busy = false ∧ s.poll busy = { s with wcnt := 0#32, pc := s.pc + 1#8, waiting := false }) := by
  cases busy
  · exact .inr (.inr ⟨rfl, by simp [State.poll, State.advance]⟩)
  · by_cases h : s.waitlim ≠ 0#32 ∧ s.waitlim.toNat ≤ nextCount s.wcnt
    · exact .inl ⟨rfl, h.1, h.2, by simp [State.poll, h]⟩
    · refine .inr (.inl ⟨rfl, ?_, by simp only [State.poll, if_true, if_neg h]⟩)
      by_cases h0 : s.waitlim = 0#32
      · exact .inl h0
      · exact .inr (Nat.lt_of_not_le fun h' => h ⟨h0, h'⟩)

/-- The next poll count is between 1 and 2^32 - 1. -/
theorem nextCount_bounds (n : Word) : 1 ≤ nextCount n ∧ nextCount n ≤ 2 ^ 32 - 1 := by
  simp only [nextCount]
  omega

/-- The next poll count fits its register. -/
theorem nextCount_toNat (n : Word) : (BitVec.ofNat 32 (nextCount n)).toNat = nextCount n := by
  have := nextCount_bounds n
  simp only [BitVec.toNat_ofNat]
  omega

/-! ### Fills -/

/-- Everything the storing of a block can do (44_exchange.md R186, R195). -/
theorem State.fillBlock_cases (s : State) (a : Nat) :
    (313 ≤ s.j.toNat ∧ s.fillBlock a = .next (s.raise .argRange))
    ∨ (s.j.toNat < 313 ∧ s.mapped a 8192 = true
        ∧ s.fillBlock a = .next (s.enqueue (blockStores a s.v s.j.toNat)).advance)
    ∨ (s.j.toNat < 313 ∧ s.mapped a 8192 = false ∧ s.fillBlock a = .fault .outsideRegion) := by
  by_cases h : 313 ≤ s.j.toNat
  · exact .inl ⟨h, by simp [State.fillBlock, outOfPasses, Config.passes, h]⟩
  · cases hm : s.mapped a 8192
    · exact .inr (.inr ⟨by omega, rfl, by
        simp [State.fillBlock, outOfPasses, Config.passes, Config.blockBytes, h, hm]⟩)
    · exact .inr (.inl ⟨by omega, rfl, by
        simp [State.fillBlock, outOfPasses, Config.passes, Config.blockBytes, h, hm]⟩)

/-- What `POSTF` can do (44_exchange.md R187). -/
theorem execPostf_cases (s : State) :
    (313 ≤ s.j.toNat ∧ execPostf s = .next (s.raise .argRange))
    ∨ (s.j.toNat < 313 ∧ s.mapped s.base.toNat 2 = true ∧ execPostf s =
        .next (s.enqueue [.data s.base (postedWord (variantWord s.v s.j.toNat 0))]).advance)
    ∨ (s.j.toNat < 313 ∧ s.mapped s.base.toNat 2 = false
        ∧ execPostf s = .fault .outsideRegion) := by
  by_cases h : 313 ≤ s.j.toNat
  · exact .inl ⟨h, by simp [execPostf, outOfPasses_of_le h]⟩
  · have h' := Nat.lt_of_not_le h
    cases hm : s.mapped s.base.toNat 2
    · exact .inr (.inr ⟨h', rfl, by simp [execPostf, outOfPasses_of_lt h', hm]⟩)
    · exact .inr (.inl ⟨h', rfl, by simp [execPostf, outOfPasses_of_lt h', hm]⟩)

/-- What `WAITF` can do (44_exchange.md R185). -/
theorem execWaitf_cases (s : State) :
    ((∃ e ∈ s.sb, e.partlyCovers s.base = true) ∧ execWaitf s = .refused .partialOverlap)
    ∨ ((∀ e ∈ s.sb, e.partlyCovers s.base = false)
        ∧ execWaitf s = .next (s.poll (flagBusy (s.loadHalf s.base)))) := by
  by_cases h : ∃ e ∈ s.sb, e.partlyCovers s.base = true
  · have : s.overlapsPartly s.base = true := by simpa [State.overlapsPartly] using h
    exact .inl ⟨h, by simp [execWaitf, this]⟩
  · have h' : ∀ e ∈ s.sb, e.partlyCovers s.base = false := by
      simpa only [not_exists, not_and, Bool.not_eq_true] using h
    have : s.overlapsPartly s.base = false := by simpa [State.overlapsPartly] using h'
    exact .inr ⟨h', by simp [execWaitf, this]⟩

/-- What `WAITA` does, busy or not (44_exchange.md R196). -/
theorem execWaita_eq (s : State) :
    (s.loadCmd ≠ 0#32 → execWaita s = .next (s.poll true))
    ∧ (s.loadCmd = 0#32 → execWaita s = .next (s.poll false)) :=
  ⟨fun h => by simp only [execWaita, ne_eq, h, not_false_eq_true, decide_true],
    fun h => by simp only [execWaita, ne_eq, h, not_true_eq_false, decide_false]⟩

/-- What `LOOPJ` can do (45_control.md R230). -/
theorem execLoopj_cases (tgt : BitVec 8) (s : State) :
    (313 ≤ s.j.toNat ∧ execLoopj tgt s = .next (s.raise .argRange))
    ∨ (s.j.toNat = 312 ∧ execLoopj tgt s =
        .next { s with j := 313#9, pc := s.pc + 1#8, waiting := false })
    ∨ (s.j.toNat < 312 ∧ execLoopj tgt s =
        .next { s with j := s.j + 1#9, pc := tgt, waiting := false }) := by
  by_cases h : 313 ≤ s.j.toNat
  · exact .inl ⟨h, by simp [execLoopj, outOfPasses_of_le h]⟩
  · by_cases h' : s.j.toNat = 312
    · have e : s.j = 312#9 := BitVec.eq_of_toNat_eq h'
      refine .inr (.inl ⟨h', ?_⟩)
      have h1 : outOfPasses (312#9) = false := by decide
      have h2 : outOfPasses (312#9 + 1#9) = true := by decide
      simp only [execLoopj, e, h1, h2, Bool.false_eq_true, if_false, if_true, State.advance]
      rfl
    · have h1 : outOfPasses s.j = false := outOfPasses_of_lt (by omega)
      have h2 : outOfPasses (s.j + 1#9) = false := outOfPasses_of_lt (by
        simp only [BitVec.toNat_add, BitVec.toNat_ofNat]
        omega)
      exact .inr (.inr ⟨by omega, by simp [execLoopj, h1, h2, State.jumpTo]⟩)

/-- What the mapped region is (20_memory.md R66). -/
theorem State.mapped_iff (s : State) (a n : Nat) :
    s.mapped a n = true ↔
      s.mapBase.toNat ≤ a ∧ a + n ≤ s.mapBase.toNat + s.mapBytes ∧ a + n ≤ 2 ^ 32 := by
  simp [State.mapped, and_assoc]

/-- The start check (60_exceptions.md R258). -/
theorem State.startOk_iff (s : State) :
    s.startOk = true ↔
      1 ≤ s.msglen.toNat ∧ s.base.toNat ≠ 0 ∧ s.base.toNat % 4 = 0 ∧ s.base.toNat + 32768 ≤ 2 ^ 32 := by
  have h : s.base = 0#32 ↔ s.base.toNat = 0 :=
    ⟨fun e => by simp [e], fun e => BitVec.eq_of_toNat_eq (by simpa using e)⟩
  simp [State.startOk, Config.regionSpan, h, and_assoc]

/-! ### The store buffer -/

/-- A load is forwarded from the youngest store of its location (20_memory.md R74). -/
theorem filterMap_getLast? {α β : Type} {f : α → Option β} {older younger : List α} {e : α} {b : β}
    (h : f e = some b) (hy : ∀ x ∈ younger, f x = none) :
    ((older ++ e :: younger).filterMap f).getLast? = some b := by
  have : younger.filterMap f = [] := by simpa using hy
  simp [h, this]

/-- What taking entry `k` out of a list does to the values that `f` gives its entries. -/
theorem filterMap_eraseIdx {α β : Type} {f : α → Option β} {l : List α} {k : Nat} {e : α}
    (h : l[k]? = some e) :
    (f e = none → (l.eraseIdx k).filterMap f = l.filterMap f)
    ∧ ∀ b, f e = some b → (∀ x ∈ l.take k, f x = none) →
        l.filterMap f = b :: (l.eraseIdx k).filterMap f := by
  obtain ⟨hk, he⟩ := List.getElem?_eq_some_iff.1 h
  have hl : l = l.take k ++ e :: l.drop (k + 1) := by
    rw [← he, List.getElem_cons_drop, List.take_append_drop]
  rw [List.eraseIdx_eq_take_drop_succ]
  refine ⟨fun h1 => ?_, fun b h1 h2 => ?_⟩
  · conv_rhs => rw [hl]
    simp [h1]
  · have : (l.take k).filterMap f = [] := by simpa using h2
    conv_lhs => rw [hl]
    simp [h1, this]

/-- The last value of a list with one more in front. -/
theorem getLast?_cons_getD {α : Type} (b d : α) (l : List α) :
    (b :: l).getLast?.getD d = l.getLast?.getD b := by
  cases l <;> simp [List.getLast?_cons]

/-- A data store that the producer issues has an even address. -/
theorem PendingStore.issued_even {a : Word} {v : Half} (h : (PendingStore.data a v).issued = true) :
    a.toNat % 2 = 0 := by
  simp only [PendingStore.issued, Bool.and_eq_true, decide_eq_true_eq] at h
  exact h.1

/-- An entry is drainable when it is in the buffer and no older entry has its location (R75). -/
theorem State.drainable?_eq_some {s : State} {k : Nat} {e : PendingStore} :
    s.drainable? k = some e ↔ s.sb[k]? = some e ∧ ∀ o ∈ s.sb.take k, o.loc ≠ e.loc := by
  unfold State.drainable?
  cases h : s.sb[k]? with
  | none => simp
  | some x =>
    by_cases hx : ∀ o ∈ s.sb.take k, o.loc ≠ x.loc
    · have : (s.sb.take k).all (fun o => o.loc ≠ x.loc) = true := by simpa using hx
      simp only [this, if_true, Option.some.injEq]
      exact ⟨fun h' => h' ▸ ⟨rfl, hx⟩, fun h' => h'.1⟩
    · have : (s.sb.take k).all (fun o => o.loc ≠ x.loc) = false := by
        simpa [List.all_eq_false] using hx
      simp only [this, Bool.false_eq_true, if_false, Option.some.injEq]
      constructor
      · intro h'
        cases h'
      · rintro ⟨rfl, h'⟩
        exact absurd h' hx

/-- Everything a drain step can do (R75). -/
theorem State.drain_cases (s : State) (k : Nat) :
    (s.drainable? k = none ∧ s.drain k = s)
    ∨ ∃ e, s.sb[k]? = some e ∧ (∀ o ∈ s.sb.take k, o.loc ≠ e.loc)
        ∧ s.drain k = { s.perform e with sb := s.sb.eraseIdx k } := by
  cases h : s.drainable? k with
  | none => exact .inl ⟨rfl, by simp [State.drain, h]⟩
  | some e =>
    have h' := State.drainable?_eq_some.1 h
    exact .inr ⟨e, h'.1, h'.2, by simp [State.drain, h]⟩

/-- The oldest entry can always be drained. -/
theorem State.drain_zero {s : State} {e : PendingStore} {es : List PendingStore} (h : s.sb = e :: es) :
    s.drain 0 = { s.perform e with sb := es } := by
  have hd : s.drainable? 0 = some e := by simp [State.drainable?_eq_some, h]
  simp [State.drain, hd, h]

/-! ### The consumer, the host and the platform -/

/-- Everything a consumer turn can do (44_exchange.md R215 to R219). -/
theorem State.consumerStep_cases (s : State) (b : Bool) :
    s.consumerStep b = s
    ∨ (s.consumer = .idle ∧ s.cproto = .flag ∧ s.consumerStep b = s.beginBlock s.mapBase)
    ∨ (s.consumer = .idle ∧ s.cproto = .addr ∧ s.cmdReg ≠ 0#32
        ∧ s.consumerStep b = ({ s with cmdReg := 0#32 }).beginBlock s.cmdReg)
    ∨ (∃ a k, s.consumer = .reading a k ∧ k < 4096 ∧ s.consumerStep b = s.consumerRead a k)
    ∨ (s.consumer = .reading s.mapBase 4096 ∧ s.cproto = .flag ∧ s.consumerStep b =
        ({ s with mem := s.mem.writeHalf s.mapBase (freedWord (s.halfAt s.mapBase) b) }).emitBlock)
    ∨ (∃ a, s.consumer = .reading a 4096 ∧ s.cproto = .addr ∧ s.consumerStep b = s.emitBlock) := by
  cases hc : s.consumer with
  | idle =>
    cases hp : s.cproto with
    | flag =>
      simp only [State.consumerStep, State.consumerIdle, hc, hp]
      split_ifs <;> simp
    | addr =>
      simp only [State.consumerStep, State.consumerIdle, hc, hp]
      by_cases h : s.cmdReg = 0#32 <;> simp [h]
  | reading a k =>
    by_cases h : k < 4096
    · refine .inr (.inr (.inr (.inl ⟨a, k, rfl, h, ?_⟩)))
      simp [State.consumerStep, hc, Config.passLen, h]
    · by_cases h' : k = 4096
      · subst h'
        cases hp : s.cproto with
        | flag =>
          by_cases ha : a = s.mapBase
          · subst ha
            simp [State.consumerStep, State.consumerDone, hc, hp, Config.passLen]
          · simp [State.consumerStep, State.consumerDone, hc, hp, Config.passLen, ha]
        | addr => simp [State.consumerStep, State.consumerDone, hc, hp, Config.passLen]
      · simp [State.consumerStep, hc, Config.passLen, h, h']

/-- The fields a drain step can change. -/
theorem State.drain_eq (s : State) (k : Nat) :
    ∃ m c b, s.drain k = { s with mem := m, cmdReg := c, sb := b } := by
  rcases State.drain_cases s k with ⟨_, e⟩ | ⟨e', _, _, e⟩ <;> rw [e]
  · exact ⟨_, _, _, rfl⟩
  · cases e' <;> exact ⟨_, _, _, rfl⟩

/-- An idle consumer of the flag-bit protocol (44_exchange.md R215). -/
theorem State.consumerStep_idle_flag {s : State} (hc : s.consumer = .idle) (hp : s.cproto = .flag)
    (b : Bool) :
    s.consumerStep b = if flagBusy (s.halfAt s.mapBase) then s.beginBlock s.mapBase else s := by
  simp only [State.consumerStep, State.consumerIdle, hc, hp]

/-- An idle consumer of the address-handoff protocol (44_exchange.md R217). -/
theorem State.consumerStep_idle_addr {s : State} (hc : s.consumer = .idle) (hp : s.cproto = .addr)
    (b : Bool) :
    s.consumerStep b =
      if s.cmdReg ≠ 0#32 then ({ s with cmdReg := 0#32 }).beginBlock s.cmdReg else s := by
  simp only [State.consumerStep, State.consumerIdle, hc, hp]

/-- A consumer with words left to read (44_exchange.md R218). -/
theorem State.consumerStep_read {s : State} {a : Word} {k : Nat} (hc : s.consumer = .reading a k)
    (hk : k < 4096) (b : Bool) : s.consumerStep b = s.consumerRead a k := by
  simp [State.consumerStep, hc, Config.passLen, hk]

/-- A consumer that has read the region of the flag-bit protocol (44_exchange.md R216). -/
theorem State.consumerStep_done_flag {s : State} (hc : s.consumer = .reading s.mapBase 4096)
    (hp : s.cproto = .flag) (b : Bool) :
    s.consumerStep b =
      ({ s with mem := s.mem.writeHalf s.mapBase (freedWord (s.halfAt s.mapBase) b) }).emitBlock := by
  simp [State.consumerStep, State.consumerDone, hc, hp, Config.passLen]

/-- A consumer that has read its slot in the address-handoff protocol (44_exchange.md R219). -/
theorem State.consumerStep_done_addr {s : State} {a : Word} (hc : s.consumer = .reading a 4096)
    (hp : s.cproto = .addr) (b : Bool) : s.consumerStep b = s.emitBlock := by
  simp [State.consumerStep, State.consumerDone, hc, hp, Config.passLen]

/-- The fields a consumer turn can change. -/
theorem State.consumerStep_eq (s : State) (b : Bool) :
    ∃ m c x y z, s.consumerStep b =
      { s with mem := m, cmdReg := c, consumer := x, buf := y, emitted := z } := by
  rcases State.consumerStep_cases s b with
    e | ⟨_, _, e⟩ | ⟨_, _, _, e⟩ | ⟨_, _, _, _, e⟩ | ⟨_, _, e⟩ | ⟨_, _, _, e⟩ <;>
    rw [e] <;> exact ⟨_, _, _, _, _, rfl⟩

/-- Everything a start can do (10_state.md R41, 60_exceptions.md R258). -/
theorem State.start_cases (s : State) :
    (s.startOk = true ∧ s.start = { s with halted := false })
    ∨ (s.startOk = false ∧ s.start = s.raise .init) := by
  cases h : s.startOk <;> simp [State.start, h]

/-- Everything a host write can do (10_state.md R41, R44 to R46). -/
theorem State.portWrite_cases (s : State) (r : PortReg) (w : Word) :
    s.portWrite r w = s
    ∨ (r = .ctrl ∧ w.getLsbD 0 = true ∧ s.halted = true ∧ s.fault = false
        ∧ s.portWrite r w = s.start)
    ∨ (s.halted = true ∧ ∃ (b l : Word) (n : BitVec 16) (p : Vector Word 256) (m : Vector Word 2048),
        s.portWrite r w = { s with base := b, waitlim := l, msglen := n, prog := p, msg := m }) := by
  cases r with
  | ctrl =>
    simp only [State.portWrite]
    split_ifs with h
    · exact .inr (.inl ⟨by trivial, h.1, h.2.1, by simpa using h.2.2, rfl⟩)
    · exact .inl rfl
  | base | waitlim | msglen | prog k | msgw m =>
    simp only [State.portWrite, State.whileHalted]
    split_ifs with h
    · exact .inr (.inr ⟨h, _, _, _, _, _, rfl⟩)
    · exact .inl rfl
  | status | res | seqstate | cursor | fc | wcnt | unmapped => exact .inl rfl

/-- The next states of a turn of the host (10_state.md R46). -/
theorem hostWriteTurn_next {off width : Nat} {w : Word} {s t : State}
    (h : hostWriteTurn off width w s = .next t) :
    width = 4 ∧ off % 4 = 0 ∧ off < 0x4000 ∧ t = s.portWrite (portReg off) w := by
  by_cases hc : portAccessOk off width = true
  · simp only [hostWriteTurn, hc, if_true, Host.Outcome.next.injEq] at h
    simp only [portAccessOk, Bool.and_eq_true, decide_eq_true_eq] at hc
    exact ⟨hc.1.1, hc.1.2, hc.2, h.symm⟩
  · simp [hostWriteTurn, hc] at h

/-- The next states of a host read: only what the host has seen changes. -/
theorem hostReadTurn_next {off width : Nat} {s t : State} (h : hostReadTurn off width s = .next t) :
    t = { s with hostSeen := s.hostSeen ++ [s.portRead (portReg off)] } := by
  by_cases hc : portAccessOk off width = true
  · simp only [hostReadTurn, hc, if_true, Host.Outcome.next.injEq] at h
    exact h.symm
  · simp [hostReadTurn, hc] at h

/-- The next states of a launch turn. -/
theorem launchTurn_next {b : Word} {n : Nat} {p : Protocol} {s t : State}
    (h : launchTurn b n p s = .next t) :
    t = s ∨ (launchOk b n p = true ∧ s.halted = true ∧ t = s.launch b n p) := by
  simp only [launchTurn] at h
  cases hl : launchOk b n p <;> simp only [hl, Bool.false_eq_true, if_true, if_false] at h
  · cases h
  · injection h with h
    cases hh : s.halted <;> simp only [hh, Bool.false_eq_true, if_true, if_false] at h
    · exact .inl h.symm
    · exact .inr ⟨rfl, rfl, h.symm⟩

/-- The platform's byte write: it changes memory alone, and only while the block is halted. -/
theorem State.platformWrite_cases (s : State) (a : Word) (b : Byte) :
    s.platformWrite a b = s
    ∨ (s.halted = true ∧ s.platformWrite a b = { s with mem := s.mem.write a.toNat b }) := by
  cases h : s.halted <;> simp [State.platformWrite, h]

end Sys2Proof.Machine
end

