-- ==== Sys2Proof/Laws/Exec.lean ====
section
/-! SUPPORT. Everything an operation, a producer's turn and any agent's turn can do when it answers a next
state, said once. -/

namespace Sys2Proof.Machine

/-- Everything an operation that answers a next state can do. -/
theorem exec_next {i : Instr} {s t : State} (h : exec i s = .next t) :
    (t = s.raise .argRange
      ∧ ((i = .fillf ∨ i = .postf ∨ i = .filla ∨ ∃ tgt, i = .loopj tgt) ∧ 313 ≤ s.j.toNat
        ∨ ∃ v pj si, (i = .dds v pj si ∨ i = .gen v pj si) ∧ 313 ≤ pj.toNat))
    ∨ (i = .seq ∧ t = ({ s.transition with j := 0#9 }).advance)
    ∨ (i = .waitf ∧ t = s.poll (flagBusy (s.loadHalf s.base)))
    ∨ (i = .waita ∧ t = s.poll (s.loadCmd ≠ 0#32))
    ∨ (i = .fillf ∧ s.j.toNat < 313 ∧ s.mapped s.base.toNat 8192 = true
        ∧ t = (s.enqueue (blockStores s.base.toNat s.v s.j.toNat)).advance)
    ∨ (i = .filla ∧ s.j.toNat < 313 ∧ s.mapped (s.slotAddr s.slot) 8192 = true
        ∧ t = (s.enqueue (blockStores (s.slotAddr s.slot) s.v s.j.toNat)).advance)
    ∨ (i = .postf ∧ s.j.toNat < 313 ∧ s.mapped s.base.toNat 2 = true
        ∧ t = (s.enqueue [.data s.base (postedWord (variantWord s.v s.j.toNat 0))]).advance)
    ∨ (i = .posta ∧ t =
        (({ s with fc := s.fc + 1#32 }).enqueue [.cmd (address (s.slotAddr s.slot))]).advance)
    ∨ (i = .fence ∧ (t = s ∨ s.sb = [] ∧ t = s.advance))
    ∨ (∃ tgt p, i = .loopj tgt ∧ s.j.toNat < 313
        ∧ t = { s with j := s.j + 1#9, pc := p, waiting := false })
    ∨ (∃ tgt, i = .jmp tgt ∧ t = s.jumpTo tgt)
    ∨ (((∃ x, i = .lut x) ∨ (∃ x, i = .shuf x) ∨ (∃ v p k, i = .dds v p k) ∨ ∃ v p k, i = .gen v p k)
        ∧ ∃ r, t = { s with res := r, pc := s.pc + 1#8, waiting := false })
    ∨ (i = .halt ∧ t = ({ s with halted := true }).advance) := by
  have data : ∀ {pj : BitVec 9} {r : Word},
      (if outOfPasses pj then .next (s.raise .argRange) else .next (s.complete r) :
        Host.Outcome State Fault Refusal) = .next t →
      (313 ≤ pj.toNat ∧ t = s.raise .argRange)
        ∨ t = { s with res := r, pc := s.pc + 1#8, waiting := false } := by
    intro pj r h
    by_cases hp : 313 ≤ pj.toNat
    · rw [if_pos (outOfPasses_of_le hp)] at h
      exact .inl ⟨hp, by cases h; rfl⟩
    · rw [if_neg (by simp [outOfPasses_of_lt (Nat.lt_of_not_le hp)])] at h
      exact .inr (by cases h; rfl)
  cases i with
  | seq => cases h; simp
  | waitf =>
    rcases execWaitf_cases s with ⟨_, e⟩ | ⟨_, e⟩ <;> cases e.symm.trans h
    simp
  | waita => cases h; simp
  | fillf =>
    rcases State.fillBlock_cases s s.base.toNat with ⟨_, e⟩ | ⟨_, _, e⟩ | ⟨_, _, e⟩ <;>
      cases e.symm.trans h <;> simp [*]
  | filla =>
    rcases State.fillBlock_cases s (s.slotAddr s.slot) with ⟨_, e⟩ | ⟨_, _, e⟩ | ⟨_, _, e⟩ <;>
      cases e.symm.trans h <;> simp [*]
  | postf =>
    rcases execPostf_cases s with ⟨_, e⟩ | ⟨_, _, e⟩ | ⟨_, _, e⟩ <;>
      cases e.symm.trans h <;> simp [*]
  | posta => cases h; simp
  | fence =>
    have h : (if s.sbEmpty then .next s.advance else .next s :
        Host.Outcome State Fault Refusal) = .next t := h
    split at h
    · have hs : s.sb = [] := by simpa [State.sbEmpty] using ‹s.sbEmpty = true›
      cases h
      simp [hs]
    · cases h
      simp
  | loopj tgt =>
    have hl : ∃ p, s.j.toNat < 313 → t = { s with j := s.j + 1#9, pc := p, waiting := false } := by
      rcases execLoopj_cases tgt s with ⟨_, e⟩ | ⟨hj, e⟩ | ⟨_, e⟩ <;> cases e.symm.trans h
      · exact ⟨0#8, by omega⟩
      · have : s.j = 312#9 := BitVec.eq_of_toNat_eq hj
        exact ⟨_, fun _ => by rw [this]; rfl⟩
      · exact ⟨_, fun _ => rfl⟩
    obtain ⟨p, hp⟩ := hl
    by_cases hj : 313 ≤ s.j.toNat
    · rcases execLoopj_cases tgt s with ⟨_, e⟩ | ⟨_, _⟩ | ⟨_, _⟩
      · cases e.symm.trans h
        simp [hj]
      all_goals omega
    · have hj := Nat.lt_of_not_le hj
      exact .inr (.inr (.inr (.inr (.inr (.inr (.inr (.inr (.inr (.inl ⟨tgt, p, rfl, hj, hp hj⟩)))))))))
  | jmp tgt => cases h; simp
  | lut x => cases h; exact .inr (.inr (.inr (.inr (.inr (.inr (.inr (.inr (.inr (.inr (.inr (.inl
      ⟨.inl ⟨x, rfl⟩, _, rfl⟩)))))))))))
  | shuf x => cases h; exact .inr (.inr (.inr (.inr (.inr (.inr (.inr (.inr (.inr (.inr (.inr (.inl
      ⟨.inr (.inl ⟨x, rfl⟩), _, rfl⟩)))))))))))
  | dds v p k =>
    rcases data h with ⟨h1, h2⟩ | h2
    · simp [*]
    · exact .inr (.inr (.inr (.inr (.inr (.inr (.inr (.inr (.inr (.inr (.inr (.inl
        ⟨.inr (.inr (.inl ⟨v, p, k, rfl⟩)), _, h2⟩)))))))))))
  | gen v p k =>
    rcases data h with ⟨h1, h2⟩ | h2
    · simp [*]
    · exact .inr (.inr (.inr (.inr (.inr (.inr (.inr (.inr (.inr (.inr (.inr (.inl
        ⟨.inr (.inr (.inr ⟨v, p, k, rfl⟩)), _, h2⟩)))))))))))
  | halt => cases h; simp

/-- Everything a producer's turn that answers a next state can do. -/
theorem producerTurn_next {s t : State} (h : producerTurn s = .next t) :
    (s.halted = true ∧ t = s)
    ∨ (s.halted = false ∧ (∃ e, decode s.fetch = .error e) ∧ t = s.raise .illegalOp)
    ∨ ∃ i, s.halted = false ∧ decode s.fetch = .ok i ∧ exec i s = .next t := by
  rcases producerTurn_cases s with ⟨h1, e⟩ | ⟨h1, h2, e⟩ | ⟨i, h1, h2, e⟩ <;> rw [e] at h
  · exact .inl ⟨h1, by cases h; rfl⟩
  · exact .inr (.inl ⟨h1, h2, by cases h; rfl⟩)
  · exact .inr (.inr ⟨i, h1, h2, h⟩)

/-- Everything a turn that answers a next state can do. -/
theorem takeTurn_next {u : Turn} {s t : State} (h : takeTurn u s = .next t) :
    (u = .producer ∧ producerTurn s = .next t)
    ∨ (∃ k, u = .drain k ∧ t = s.drain k)
    ∨ (∃ b, u = .consumer b ∧ t = s.consumerStep b)
    ∨ (∃ off w, u = .hostRead off w
        ∧ t = { s with hostSeen := s.hostSeen ++ [s.portRead (portReg off)] })
    ∨ (∃ off w, u = .hostWrite off 4 w ∧ off % 4 = 0 ∧ off < 0x4000
        ∧ t = s.portWrite (portReg off) w)
    ∨ (u = .reset ∧ t = s.blockReset)
    ∨ (∃ b n p, u = .launch b n p
        ∧ (t = s ∨ launchOk b n p = true ∧ s.halted = true ∧ t = s.launch b n p))
    ∨ ∃ a b, u = .platformWrite a b ∧ t = s.platformWrite a b := by
  cases u with
  | producer => exact .inl ⟨rfl, h⟩
  | drain k => cases h; exact .inr (.inl ⟨k, rfl, rfl⟩)
  | consumer b => cases h; exact .inr (.inr (.inl ⟨b, rfl, rfl⟩))
  | hostRead off w => exact .inr (.inr (.inr (.inl ⟨off, w, rfl, hostReadTurn_next h⟩)))
  | hostWrite off n w =>
    obtain ⟨rfl, h1, h2, h3⟩ := hostWriteTurn_next h
    exact .inr (.inr (.inr (.inr (.inl ⟨off, w, rfl, h1, h2, h3⟩))))
  | reset => cases h; exact .inr (.inr (.inr (.inr (.inr (.inl ⟨rfl, rfl⟩)))))
  | launch b n p =>
    exact .inr (.inr (.inr (.inr (.inr (.inr (.inl ⟨b, n, p, rfl, launchTurn_next h⟩))))))
  | platformWrite a b =>
    cases h
    exact .inr (.inr (.inr (.inr (.inr (.inr (.inr ⟨a, b, rfl, rfl⟩))))))

/-- Offset 0 is the one that names `CTRL` (10_state.md R40). -/
theorem portReg_ctrl {off : Nat} (h : portReg off = .ctrl) : off = 0 := by
  unfold portReg at h
  split at h <;> first | rfl | (exfalso; revert h; (try split) <;> (try split) <;> simp)

/-- A poll lists no turn. -/
@[simp] theorem State.poll_turns (s : State) (busy : Bool) : (s.poll busy).turns = s.turns := by
  unfold State.poll
  split_ifs <;> rfl

/-- An operation lists no turn and uses none up. -/
theorem exec_turns {i : Instr} {s t : State} (h : exec i s = .next t) : t.turns = s.turns := by
  rcases exec_next h with ⟨rfl, _⟩ | ⟨_, rfl⟩ | ⟨_, rfl⟩ | ⟨_, rfl⟩ | ⟨_, _, _, rfl⟩ | ⟨_, _, _, rfl⟩
    | ⟨_, _, _, rfl⟩ | ⟨_, rfl⟩ | ⟨_, rfl | ⟨_, rfl⟩⟩ | ⟨_, _, _, _, rfl⟩ | ⟨_, _, rfl⟩ | ⟨_, _, rfl⟩
    | ⟨_, rfl⟩ <;> simp

/-- A turn lists no turn and uses none up. -/
theorem takeTurn_turns {u : Turn} {s t : State} (h : takeTurn u s = .next t) : t.turns = s.turns := by
  rcases takeTurn_next h with ⟨_, h⟩ | ⟨k, _, rfl⟩ | ⟨b, _, rfl⟩ | ⟨_, _, _, rfl⟩ | ⟨_, _, _, _, _, rfl⟩
    | ⟨_, rfl⟩ | ⟨_, _, _, _, rfl | ⟨_, _, rfl⟩⟩ | ⟨a, b, _, rfl⟩
  · rcases producerTurn_next h with ⟨_, rfl⟩ | ⟨_, _, rfl⟩ | ⟨_, _, _, h⟩
    · rfl
    · rfl
    · exact exec_turns h
  · obtain ⟨_, _, _, e⟩ := s.drain_eq k
    rw [e]
  · obtain ⟨_, _, _, _, _, e⟩ := s.consumerStep_eq b
    rw [e]
  · rfl
  · rename_i off w _ _ _
    rcases s.portWrite_cases (portReg off) w with e | ⟨_, _, _, _, e⟩ | ⟨_, _, _, _, _, _, e⟩ <;> rw [e]
    rcases s.start_cases with ⟨_, e⟩ | ⟨_, e⟩ <;> rw [e]
    rfl
  · rfl
  · rfl
  · rfl
  · rcases s.platformWrite_cases a b with e | ⟨_, e⟩ <;> rw [e]

/-- A step uses up its turn and lists none. -/
theorem step_turns {s t : State} (h : step s = .next t) : t.turns = s.turns.tail := takeTurn_turns h

end Sys2Proof.Machine
end

