-- ==== Sys2Proof/Laws/PerInstr.lean ====
section
/-! SUPPORT. The statement made per instruction: the word of every instruction is legal by the table of
formats, which the encoder does not read. -/

namespace Sys2Proof.Laws

/-- The word of an instruction is legal (30_encoding.md R95, R97). -/
def EncodedLegal.Statement (i : Instr) : Prop := wellFormedWord (encode i) = true

/-- A word is legal when its opcode has a format whose reserved field in the word is 0. -/
theorem wellFormedWord_of {w : Word} {f : Format} (hf : formatOf (opField w) = some f)
    (hr : w &&& f.reservedMask = 0#32) : wellFormedWord w = true := by
  simp only [opField] at hf
  simp only [wellFormedWord, hf, hr, BEq.rfl]

theorem EncodedLegal.seq : EncodedLegal.Statement .seq := rfl

theorem EncodedLegal.waitf : EncodedLegal.Statement .waitf := rfl

theorem EncodedLegal.fillf : EncodedLegal.Statement .fillf := rfl

theorem EncodedLegal.postf : EncodedLegal.Statement .postf := rfl

theorem EncodedLegal.filla : EncodedLegal.Statement .filla := rfl

theorem EncodedLegal.waita : EncodedLegal.Statement .waita := rfl

theorem EncodedLegal.posta : EncodedLegal.Statement .posta := rfl

theorem EncodedLegal.fence : EncodedLegal.Statement .fence := rfl

theorem EncodedLegal.loopj (tgt : BitVec 8) : EncodedLegal.Statement (.loopj tgt) :=
  wellFormedWord_of (f := .T) (by rw [encode, (encodeT_fields _ _).1]; rfl)
    ((reservedMask_iff _ .T).2 (encodeT_fields _ _).2.1)

theorem EncodedLegal.jmp (tgt : BitVec 8) : EncodedLegal.Statement (.jmp tgt) :=
  wellFormedWord_of (f := .T) (by rw [encode, (encodeT_fields _ _).1]; rfl)
    ((reservedMask_iff _ .T).2 (encodeT_fields _ _).2.1)

theorem EncodedLegal.lut (idx : BitVec 7) : EncodedLegal.Statement (.lut idx) :=
  wellFormedWord_of (f := .L) (by rw [encode, (encodeL_fields _ _).1]; rfl)
    ((reservedMask_iff _ .L).2 (encodeL_fields _ _).2.1)

theorem EncodedLegal.shuf (xin : BitVec 8) : EncodedLegal.Statement (.shuf xin) :=
  wellFormedWord_of (f := .X) (by rw [encode, (encodeX_fields _ _).1]; rfl)
    ((reservedMask_iff _ .X).2 (encodeX_fields _ _).2.1)

theorem EncodedLegal.dds (var : BitVec 3) (pj : BitVec 9) (si : BitVec 12) :
    EncodedLegal.Statement (.dds var pj si) :=
  wellFormedWord_of (f := .G) (by rw [encode, (encodeG_fields _ _ _ _).1]; rfl)
    ((reservedMask_iff _ .G).2 (encodeG_fields _ _ _ _).2.1)

theorem EncodedLegal.gen (var : BitVec 3) (pj : BitVec 9) (si : BitVec 12) :
    EncodedLegal.Statement (.gen var pj si) :=
  wellFormedWord_of (f := .G) (by rw [encode, (encodeG_fields _ _ _ _).1]; rfl)
    ((reservedMask_iff _ .G).2 (encodeG_fields _ _ _ _).2.1)

theorem EncodedLegal.halt : EncodedLegal.Statement .halt := rfl

end Sys2Proof.Laws
end

