-- ==== Sys2Proof/Laws/Run.lean ====
section
/-! SUPPORT. The laws of a run of several steps. -/

namespace Sys2Proof.Machine

/-- A run of no step. -/
@[simp] theorem run_zero (s : State) : Sys2Proof.core.run 0 s = .next s := rfl

/-- A run that starts with a step that answers a next state. -/
theorem run_succ {s t : State} (h : step s = .next t) (n : Nat) :
    Sys2Proof.core.run (n + 1) s = Sys2Proof.core.run n t := by
  have h' : Sys2Proof.core.step s = .next t := h
  simp only [Host.Core.run, h']

/-- A run splits at any step. -/
theorem run_add {s t : State} {m : Nat} (h : Sys2Proof.core.run m s = .next t) (n : Nat) :
    Sys2Proof.core.run (m + n) s = Sys2Proof.core.run n t := by
  induction m generalizing s with
  | zero =>
    cases h
    rw [Nat.zero_add]
  | succ m ih =>
    simp only [Host.Core.run] at h
    rw [Nat.succ_add]
    cases hs : Sys2Proof.core.step s with
    | next s' =>
      rw [hs] at h
      rw [run_succ hs, ih h]
    | fault r => rw [hs] at h; cases h
    | refused r => rw [hs] at h; cases h

/-- A run of one step. -/
theorem run_one {s t : State} (h : step s = .next t) : Sys2Proof.core.run 1 s = .next t :=
  run_succ h 0

/-- A run that answers a next state begins with a step that does. -/
theorem run_succ_next {s t : State} {n : Nat} (h : Sys2Proof.core.run (n + 1) s = .next t) :
    ∃ u, step s = .next u ∧ Sys2Proof.core.run n u = .next t := by
  simp only [Host.Core.run] at h
  cases hs : Sys2Proof.core.step s with
  | next s' => rw [hs] at h; exact ⟨s', hs, h⟩
  | fault r => rw [hs] at h; cases h
  | refused r => rw [hs] at h; cases h

/-- A run uses up as many turns as it has steps. -/
theorem run_turns {s t : State} {n : Nat} (h : Sys2Proof.core.run n s = .next t) :
    t.turns = s.turns.drop n := by
  induction n generalizing s with
  | zero => cases h; rfl
  | succ n ih =>
    obtain ⟨u, hu, h⟩ := run_succ_next h
    rw [ih h, step_turns hu, ← List.drop_one, List.drop_drop, Nat.add_comm]

/-- With no turn listed the drain takes the pending stores one by one, oldest first, and nothing but
shared memory and the store buffer changes (20_memory.md R75, log entry 1). -/
theorem run_default_drains {s : State} (h : s.turns = []) :
    ∃ m c, Sys2Proof.core.run s.sb.length s = .next { s with mem := m, cmdReg := c, sb := [] } := by
  generalize hn : s.sb = es
  induction es generalizing s with
  | nil => exact ⟨s.mem, s.cmdReg, by cases s; simp only at hn; subst hn; rfl⟩
  | cons e es ih =>
    have hs : step s = .next { s.perform e with sb := es } := by
      rw [step_no_turn h, if_neg (by simp [hn]), s.drain_zero hn]
    rw [List.length_cons, run_succ hs]
    cases e <;> exact ih h rfl

/-- Drain turns on the oldest entry, one for each pending store, do the same and leave the other turns. -/
theorem run_listed_drains {s : State} {ts : List Turn}
    (ht : s.turns = List.replicate s.sb.length (.drain 0) ++ ts) :
    ∃ m c, Sys2Proof.core.run s.sb.length s
      = .next { s with mem := m, cmdReg := c, sb := [], turns := ts } := by
  generalize hn : s.sb = es at ht
  induction es generalizing s with
  | nil => exact ⟨s.mem, s.cmdReg, by
      cases s
      simp only [List.length_nil, List.replicate_zero, List.nil_append] at hn ht
      subst hn ht
      rfl⟩
  | cons e es ih =>
    rw [List.length_cons, List.replicate_succ, List.cons_append] at ht
    obtain ⟨u, hu⟩ : ∃ u : State,
        u = { s with turns := List.replicate es.length (Turn.drain 0) ++ ts } := ⟨_, rfl⟩
    have hs : step s = .next (u.drain 0) := by rw [step_turn ht, hu]; rfl
    have hus : u.sb = e :: es := by rw [hu]; exact hn
    rw [State.drain_zero hus] at hs
    rw [List.length_cons, run_succ hs]
    subst hu
    cases e <;> exact ih rfl rfl

end Sys2Proof.Machine
end

