-- ==== Sys2Proof/Tests/Slice0.lean ====
section
/-! SUPPORT. Tests on fixed values, taken from spec/95_test_vectors.md and from the words and examples of the
rules, and for every statement with hypotheses a witness: concrete values that meet all of them. -/

namespace Sys2Proof.Tests

open Sys2Proof Sys2Proof.Machine

/-! ### Helpers -/

/-- The common start state of spec/95_test_vectors.md: `BASE = 0x20000000`, the message `1`. -/
def start : State :=
  { State.reset with
    base := 0x20000000#32, msglen := 1#16, msg := (Vector.replicate 2048 0#32).set 0 0x00000001#32 }

/-- The common start state with `w` the next operation of a running producer. -/
def fetching (w : Nat) : State := start.withFetchWord 32 w

/-- The same at another index of the program store. -/
def fetchingAt (pc : BitVec 8) (w : Nat) : State := ({ start with pc := pc }).withFetchWord 32 w

/-- The common start state with a flag word in memory and `w` the next operation, at index 1. -/
def polling (flag : List (BitVec 8)) (w : Nat) : State :=
  { fetchingAt 1#8 w with mem := (flag.zipIdx 0x20000000).map fun p => (p.2, p.1) }

/-- What `f` reads from the next state. -/
def after {α : Type} (o : Host.Outcome State Fault Refusal) (f : State → α) : Option α :=
  match o with
  | .next t => some (f t)
  | .fault _ => none
  | .refused _ => none

/-- The words of a text that assembles. -/
def words (src : List Char) : Option (List Word) :=
  match assemble src with
  | .ok ws => some ws
  | .error _ => none

/-! ### Well-formedness: for each check a term that it refuses (spec/95_test_vectors.md L2.1) -/

theorem test_illformed_opcode_zero : wellFormedWord 0x00000000#32 = false := by decide
theorem test_illformed_opcode_zero_bit4 : wellFormedWord 0x00000010#32 = false := by decide
theorem test_illformed_N_bit4 : wellFormedWord 0x00000011#32 = false := by decide
theorem test_illformed_N_bit31 : wellFormedWord 0x8000000F#32 = false := by decide
theorem test_illformed_T_bit12 : wellFormedWord 0x00001009#32 = false := by decide
theorem test_illformed_L_bit11 : wellFormedWord 0x0000080B#32 = false := by decide
theorem test_illformed_X_bit12 : wellFormedWord 0x0000100C#32 = false := by decide
theorem test_illformed_G_bit28 : wellFormedWord 0x1000000D#32 = false := by decide
theorem test_illformed_loopj_256 : (AsmOp.loopj (.index 256)).wellFormed = false := by decide
theorem test_illformed_jmp_256 : (AsmOp.jmp (.index 256)).wellFormed = false := by decide
theorem test_illformed_lut_128 : (AsmOp.lut 128).wellFormed = false := by decide
theorem test_illformed_shuf_256 : (AsmOp.shuf 256).wellFormed = false := by decide
theorem test_illformed_dds_var : (AsmOp.dds 8 0 0).wellFormed = false := by decide
theorem test_illformed_dds_pj : (AsmOp.dds 0 512 0).wellFormed = false := by decide
theorem test_illformed_gen_si : (AsmOp.gen 0 0 4096).wellFormed = false := by decide
theorem test_wellformed_gen_pj_511 : (AsmOp.gen 7 511 4095).wellFormed = true := by decide

/-! ### Decoding: words of spec/95_test_vectors.md L2.1 and of the rules -/

theorem test_decode_seq : decode 0x00000001#32 = .ok .seq := by rfl
theorem test_decode_waitf : decode 0x00000002#32 = .ok .waitf := by rfl
theorem test_decode_fillf : decode 0x00000003#32 = .ok .fillf := by rfl
theorem test_decode_postf : decode 0x00000004#32 = .ok .postf := by rfl
theorem test_decode_filla : decode 0x00000005#32 = .ok .filla := by rfl
theorem test_decode_waita : decode 0x00000006#32 = .ok .waita := by rfl
theorem test_decode_posta : decode 0x00000007#32 = .ok .posta := by rfl
theorem test_decode_fence : decode 0x00000008#32 = .ok .fence := by rfl
theorem test_decode_halt : decode 0x0000000F#32 = .ok .halt := by rfl
theorem test_decode_loopj : decode 0x00000079#32 = .ok (.loopj 7#8) := by rfl
theorem test_decode_jmp : decode 0x00000FFA#32 = .ok (.jmp 255#8) := by rfl
theorem test_decode_lut : decode 0b00000000000000000000011000001011#32 = .ok (.lut 96#7) := by rfl
theorem test_decode_shuf : decode 0b00000000000000000000100000001100#32 = .ok (.shuf 0x80#8) := by rfl
theorem test_decode_dds :
    decode 0b00001001110001111111111111001101#32 = .ok (.dds 4#3 312#9 4095#12) := by rfl
theorem test_decode_gen :
    decode 0b00000001100100000000001001101110#32 = .ok (.gen 6#3 50#9 4#12) := by rfl
theorem test_decode_gen_max : decode 0x0FFFFFFE#32 = .ok (.gen 7#3 511#9 4095#12) := by rfl
theorem test_decode_illegal : decode 0x00001009#32 = .error .reservedBitSet := by rfl
theorem test_encode_dds : encode (.dds 4#3 312#9 4095#12) = 0x09C7FFCD#32 := by rfl
theorem test_encode_gen : encode (.gen 6#3 50#9 4#12) = 0x0190026E#32 := by rfl
theorem test_encode_lut : encode (.lut 127#7) = 0x000007FB#32 := by rfl
theorem test_encode_shuf : encode (.shuf 0x7F#8) = 0x000007FC#32 := by rfl
theorem test_encode_jmp : encode (.jmp 3#8) = 0x0000003A#32 := by rfl
theorem test_table_word : decodeTableWord 32 0x09C7FFCD = some (.dds 4#3 312#9 4095#12) := by rfl
theorem test_table_word_illegal : decodeTableWord 32 0x00000011 = none := by rfl

/-! ### The assembler (30_encoding.md R101 to R103) -/

theorem test_assemble_lut : words ['L', 'U', 'T', ' ', '3', '2'] = some [0x0000020B#32] := by rfl
theorem test_assemble_dds :
    words ['D', 'D', 'S', ' ', '4', ',', ' ', '3', '1', '2', ',', '0', 'x', 'F', 'f', 'F', ';', 'x']
      = some [0x09C7FFCD#32] := by rfl
theorem test_assemble_label :
    words (['S', 'E', 'Q', '\n', 'a', ':', ' ', 'S', 'E', 'N', 'D', 'A', '\n'] ++
      ['L', 'O', 'O', 'P', 'J', ' ', 'a', '\n', 'J', 'M', 'P', ' ', '0'])
      = some Config.addressProgram := by rfl
theorem test_assemble_range : assemble ['J', 'M', 'P', ' ', '2', '5', '6'] = .error .operandRange := by rfl
theorem test_flag_program :
    assembleLines [⟨none, .seq⟩, ⟨some ['s'], .sendf⟩, ⟨none, .loopj (.label ['s'])⟩,
      ⟨none, .jmp (.index 0)⟩] = .ok Config.flagProgram := by rfl

/-! ### The datapath operations (L2.2 to L2.4) -/

theorem test_lut_negative : after (step (fetching 0x0000060B)) (fun t => (t.res, t.pc))
    = some (0xFFFFFC00#32, 1#8) := by decide
theorem test_lut_33 : after (exec (.lut 33#7) start) (fun t => t.res) = some 0x000003FF#32 := by decide
theorem test_shuf_55 : after (exec (.shuf 0x55#8) start) (fun t => t.res) = some 0x0000008A#32 := by
  decide
theorem test_shuf_aa : after (step (fetching 0x00000AAC)) (fun t => (t.res, t.pc))
    = some (0x00004025#32, 1#8) := by decide
theorem test_dds_tdiv : after (exec (.dds 1#3 308#9 12#12) start) (fun t => t.res)
    = some 130#32 := by decide
theorem test_dds_last : after (step (fetching 0x09C7FFCD)) (fun t => (t.res, t.pc))
    = some (3#32, 1#8) := by decide
theorem test_gen_ramps : after (exec (.gen 7#3 200#9 4#12) start) (fun t => t.res)
    = some 0x000040A3#32 := by decide
theorem test_gen_out_of_range : after (step (fetching 0x09C8000E)) (fun t => t.statusWord)
    = some 0x0000002B#32 := by decide
theorem test_mag_edges : mag true false 127 = 1023 ∧ mag true false 128 = 1024 ∧ mag false true 185 = 1024
    ∧ mag false true 186 = 1023 ∧ mag false true 308 = 50 ∧ mag false true 309 = 0 := by decide
theorem test_num_extremes : mixNum false 128 13 = 1048580 ∧ mixNum false 128 5 = -1048580 := by decide

/-! ### The scheduler (L1.4, L2.5) -/

/-- The registers of the message `101` after `n` transitions: the host's `SEQSTATE`. -/
def seqstates : Nat → State → List Word
  | 0, _ => []
  | n + 1, s => s.transition.seqstateWord :: seqstates n s.transition

theorem test_seq_scenario :
    seqstates 4 { start with msglen := 3#16, msg := start.msg.set 0 0x00000005#32 }
      = [0x00780001#32, 0x00240002#32, 0x00060000#32, 0x00130001#32] := by decide
theorem test_seq_wraps_pc : after (step ({ fetchingAt 255#8 1 with j := 313#9 }))
    (fun t => (t.pc, t.v, t.j, t.seqstateWord)) = some (0#8, 6#3, 0#9, 0x006C0000#32) := by decide

/-! ### The exchange (L2.6 to L2.8) -/

theorem test_waitf_stays : after (step (polling [0xAF#8, 0x81#8] 2)) (fun t => (t.wcnt, t.waiting, t.pc))
    = some (1#32, true, 1#8) := by decide
theorem test_waitf_forwarded :
    after (step { polling [0x81#8, 0x81#8] 2 with sb := [.data 0x20000000#32 0x00AF#16], wcnt := 5#32 })
      (fun t => (t.wcnt, t.waiting, t.pc)) = some (0#32, false, 2#8) := by decide
theorem test_waita_faults :
    after (step { fetchingAt 1#8 6 with cmdReg := 0x20000000#32, waitlim := 3#32, wcnt := 2#32 })
      (fun t => (t.wcnt, t.cause, t.faultpc, t.pc, t.halted)) = some (2#32, 3#4, 1#8, 1#8, true) := by
  decide
theorem test_waita_saturates :
    after (step { fetchingAt 1#8 6 with sb := [.cmd 0x20000000#32], wcnt := 0xFFFFFFFF#32 })
      (fun t => (t.wcnt, t.waiting, t.pc)) = some (0xFFFFFFFF#32, true, 1#8) := by decide
theorem test_fillf_block : (blockStores 0x20000000 0#3 0)[4095]?
    = some (.data 0x20001FFE#32 0x4028#16) := by
  rw [blockStores, Config.passLen, List.getElem?_map, List.getElem?_range (by decide)]
  rfl
theorem test_fillf_out_of_range : after (step { fetchingAt 2#8 3 with j := 313#9 })
    (fun t => (t.statusWord, t.sb)) = some (0x0002022B#32, []) := by decide
theorem test_postf : after (step { fetching 4 with v := 4#3, j := 312#9 }) (fun t => t.sb)
    = some [.data 0x20000000#32 0x810C#16] := by decide
theorem test_postf_unmapped : step { fetching 4 with mapBytes := 0 } = .fault .outsideRegion := by rfl
theorem test_filla_slot : ({ start with fc := 5#32 }).slotAddr ({ start with fc := 5#32 }).slot
    = 0x20002000 := by decide
theorem test_filla_unmapped : step { fetching 5 with fc := 3#32, mapBytes := 32767 }
    = .fault .outsideRegion := by rfl
theorem test_posta : after (step { fetching 7 with fc := 1#32 }) (fun t => (t.sb, t.fc))
    = some ([.cmd 0x20002000#32], 2#32) := by decide
theorem test_posta_wraps : after (step { fetching 7 with fc := 0xFFFFFFFF#32 }) (fun t => (t.sb, t.fc))
    = some ([.cmd 0x20006000#32], 0#32) := by decide
theorem test_fence_empty : after (step { fetching 8 with waiting := true, wcnt := 7#32 })
    (fun t => (t.pc, t.waiting, t.wcnt)) = some (1#8, false, 7#32) := by decide
theorem test_fence_holds : after (step { fetching 8 with sb := [.cmd 4#32] })
    (fun t => (t.pc, t.sb)) = some (0#8, [.cmd 4#32]) := by decide
theorem test_drain_order :
    after (step { start with
      sb := [.data 8#32 1#16, .data 8#32 2#16, .data 10#32 0x0403#16], turns := [.drain 2] })
      (fun t => (t.mem, t.sb.length)) = some ([(10, 3#8), (11, 4#8)], 2) := by decide
theorem test_drain_waits_for_older :
    after (step { start with sb := [.data 8#32 1#16, .data 8#32 2#16], turns := [.drain 1] })
      (fun t => (t.mem, t.sb.length)) = some ([], 2) := by decide
theorem test_consumer_done :
    after (step { polling [0xAF#8, 0x81#8] 2 with
      cproto := .flag, consumer := .reading 0x20000000#32 4096, buf := [7#16], turns := [.consumer false] })
      (fun t => (t.mem, t.emitted, t.consumer))
      = some ([(0x20000000, 0xAF#8), (0x20000001, 0x00#8)], [[7#16]], .idle) := by decide
theorem test_consumer_takes :
    after (step { start with cmdReg := 0x20002000#32, turns := [.consumer true] })
      (fun t => (t.cmdReg, t.consumer)) = some (0#32, .reading 0x20002000#32 0) := by decide

/-! ### Control flow (L2.9) -/

theorem test_loopj_last : after (step { fetchingAt 5#8 0x19 with j := 312#9 }) (fun t => (t.j, t.pc))
    = some (313#9, 6#8) := by decide
theorem test_loopj_branches : after (step { fetchingAt 5#8 0x19 with j := 311#9 }) (fun t => (t.j, t.pc))
    = some (312#9, 1#8) := by decide
theorem test_jmp : after (step { fetchingAt 9#8 0x3A with waiting := true }) (fun t => (t.pc, t.waiting))
    = some (3#8, false) := by decide
theorem test_halt : after (step (fetchingAt 2#8 0xF)) (fun t => t.statusWord)
    = some 0x00030009#32 := by decide
theorem test_halt_wraps : after (step (fetchingAt 255#8 0xF)) (fun t => (t.halted, t.pc))
    = some (true, 0#8) := by decide

/-! ### Faults, start and host port (L2.10) -/

theorem test_reset_status : State.reset.statusWord = 0x00000009#32 := by decide
theorem test_reset_prog : State.reset.portRead (portReg 0x400) = 0x00000001#32
    ∧ State.reset.portRead (portReg 0x418) = 0x0000000A#32
    ∧ State.reset.portRead (portReg 0x41C) = 0x00000000#32 := by decide
theorem test_start_unconfigured :
    after (step { State.reset with turns := [.hostWrite 0 4 1#32] }) (fun t => t.statusWord)
      = some 0x0000004B#32 := by decide
theorem test_start_misaligned :
    after (step { start with base := 0x20000002#32, turns := [.hostWrite 0 4 1#32] })
      (fun t => t.statusWord) = some 0x0000004B#32 := by decide
theorem test_start_too_high :
    after (step { start with base := 0xFFFF9000#32, turns := [.hostWrite 0 4 1#32] })
      (fun t => t.statusWord) = some 0x0000004B#32 := by decide
theorem test_start_at_the_top :
    after (step { start with base := 0xFFFF8000#32, turns := [.hostWrite 0 4 1#32] })
      (fun t => (t.halted, t.fault)) = some (false, false) := by decide
theorem test_illegal_status : after (step (fetching 0x11)) (fun t => t.statusWord)
    = some 0x0000001B#32 := by decide
theorem test_message_window :
    after (step { State.reset with turns := [.hostWrite 0x2000 4 5#32] })
      (fun t => (t.msgBit 0#16, t.msgBit 1#16, t.msgBit 2#16)) = some (true, false, true) := by decide
theorem test_msglen_reserved :
    after (step { State.reset with turns := [.hostWrite 0x024 4 0xFFFF0003#32] })
      (fun t => t.portRead (portReg 0x024)) = some 0x00000003#32 := by decide
theorem test_unmapped_reads_zero :
    after (step { start with turns := [.hostRead 0x028 4] }) (fun t => t.hostSeen)
      = some [0#32] := by decide
theorem test_host_narrow_refused :
    step { start with turns := [.hostRead 0x01C 2] } = .refused .hostAccess := by rfl
theorem test_launch_clears_bit_8 :
    after (step { polling [0xAF#8, 0x81#8] 2 with
      halted := true, turns := [.launch 0x20000000#32 8192 .flag] }) (fun t => (t.mem, t.cproto))
      = some ([(0x20000000, 0xAF#8), (0x20000001, 0x80#8)], .flag) := by decide
theorem test_launch_refused :
    step { start with turns := [.launch 0x20000000#32 8192 .addr] } = .refused .launchParameters := by rfl
theorem test_partial_overlap_refused :
    step { fetching 2 with sb := [.data 0x20000001#32 0#16] } = .refused .partialOverlap := by rfl
theorem test_default_turn_drains :
    after (step { start with sb := [.cmd 4#32] }) (fun t => (t.cmdReg, t.sb)) = some (4#32, []) := by
  decide

/-- A producer that polls its own pending handoff: with no turn listed the drain acts (20_memory.md R75). -/
theorem test_default_drain_is_fair :
    after (step { fetching 6 with sb := [.cmd 4#32], turns := [] }) (fun t => (t.cmdReg, t.sb, t.wcnt))
      = some (4#32, [], 0#32) := by decide

/-! ### Witnesses: for each statement with hypotheses, values that meet them, at boundary values -/

/-- For every `ReservedBitsRaise` clause: a running producer that fetches the opcode with its lowest reserved
bit, or bit 31, set. -/
theorem witness_ReservedBitsRaise :
    ∀ p ∈ [(0x3, 4, 0x00000013), (0x4, 4, 0x80000004), (0x5, 4, 0x00000015), (0x7, 4, 0x80000007),
        (0x9, 12, 0x00001009), (0xA, 12, 0x8000000A), (0xB, 11, 0x0000080B), (0xC, 12, 0x0000100C),
        (0xD, 28, 0x1000000D), (0xE, 28, 0x8000000E), (0xF, 4, 0x8000000F)],
      (fetching p.2.2).halted = false ∧ opField (fetching p.2.2).fetch = BitVec.ofNat 4 p.1
        ∧ (fetching p.2.2).fetch.toNat / 2 ^ p.2.1 ≠ 0 := by decide

theorem witness_ReservedBitsLeaveOneSpelling :
    formatOf (opField 0x00001009#32) = some .T ∧ 0x00001009#32 &&& Format.T.reservedMask ≠ 0#32
      ∧ decode 0x0FFFFFFE#32 = .ok (.gen 7#3 511#9 4095#12) := ⟨rfl, by decide, rfl⟩

/-- A program with a label and a target, for the clauses on lines. -/
def labelled : List AsmLine :=
  [⟨none, .seq⟩, ⟨some ['a'], .senda⟩, ⟨none, .loopj (.label ['a'])⟩]

theorem witness_AssemblerFollowsTheSyntax_lines :
    (AsmLine.mk none (.lut 128)).op.wellFormed = false
      ∧ (∃ ws, assembleLines labelled = .ok ws)
      ∧ labelled = [⟨none, .seq⟩] ++ ⟨some ['a'], .senda⟩ :: [⟨none, .loopj (.label ['a'])⟩]
      ∧ (∀ l ∈ labelled, l.op.wellFormed = true)
      ∧ (∀ l ∈ labelled, ∀ name, l.op = .loopj (.label name) ∨ l.op = .jmp (.label name) →
        ∃ l' ∈ labelled, l'.label = some name)
      ∧ (labelled.filterMap AsmLine.label).Nodup
      ∧ (labelled.map fun l => asmSize l.op).sum ≤ 256 := by
  refine ⟨rfl, ⟨_, rfl⟩, rfl, by decide, ?_, by decide, by decide⟩
  simp [labelled]

theorem witness_AssemblerFollowsTheSyntax_text :
    ';' ∉ ['S', 'E', 'Q'] ∧ ':' ∉ ['S', 'E', 'Q'] ∧ ':' ∉ ['a'] ∧ ';' ∉ ['a'] ∧ ',' ∉ ['7']
      ∧ parseLine ['S', 'E', 'Q'] = .ok (some ⟨none, .seq⟩) ∧ parseLine [' '] = .ok none
      ∧ parseNumber ['0', 'x', 'F', 'F'] = some 255 ∧ parseNumber ['4', '0', '9', '5'] = some 4095
      ∧ parseNumber ['a'] = none ∧ (∀ c ∈ ['a'], isBlank c = false) :=
  ⟨by decide, by decide, by decide, by decide, by decide, rfl, rfl, rfl, rfl, rfl, by simp [isBlank]⟩

theorem witness_StepRunsDecodedInstruction :
    (fetching 0xA).halted = false ∧ decode (fetching 0xA).fetch = .ok (.jmp 0#8)
      ∧ (fetching 0xA).turns = [.producer]
      ∧ { fetching 0xA with turns := [] }.turns = [] ∧ (fetching 0xA).sb = [] :=
  ⟨rfl, rfl, rfl, rfl, rfl⟩

theorem witness_IllegalWordRaisesIllegalOp :
    (fetching 0x10).turns = [.producer] ∧ (fetching 0x10).halted = false
      ∧ wellFormedWord (fetching 0x10).fetch = false := by decide

theorem witness_ProducerFetchesUnlessHalted :
    (fetching 0xF).turns = [.producer] ∧ (fetching 0xF).halted = false
      ∧ decode (fetching 0xF).prog[(fetching 0xF).pc.toNat] = .ok .halt
      ∧ decode (fetching 0x11).prog[(fetching 0x11).pc.toNat] = .error .reservedBitSet
      ∧ start.halted = true ∧ { start with turns := [.drain 0] }.turns = [.drain 0]
      ∧ { start with turns := [.consumer true] }.turns = [.consumer true]
      ∧ { start with turns := [.hostWrite 0x3FFC 4 0#32] }.turns = [.hostWrite 0x3FFC 4 0#32] :=
  ⟨rfl, rfl, rfl, rfl, rfl, rfl, rfl, rfl⟩

/-- For `DdsWritesClampedSample` and `GenWritesVariantWord`: the last pass and the first beyond it. -/
theorem witness_pass_operands : (312#9).toNat < 313 ∧ 313 ≤ (313#9).toNat ∧ 4095 < 4096 := by decide

theorem witness_SineTableInvariants :
    sine (63 + 64) = -sine 63 ∧ sine 127 < 1024 ∧ sine (64 - 63) = sine 63
      ∧ sine (32 + 32) = sine (32 - 32) ∧ sine 31 < sine 32 := by decide

/-- For `MixerBounds` and `ClampActsOnlyAtTheBottom`: the last pass and sample. -/
theorem witness_last_sample : mix true 312 4095 = -992 ∧ scaled true false false 312 4095 = -992
    ∧ scaled false false false 0 4 = -1024 := by decide

theorem witness_EnvelopeWindows :
    mag true false 127 = sine 31 ∧ mag false true 186 = sine 31 ∧ mag true true 128 = 1024
      ∧ mag true true 185 = 1024 ∧ mag true false 3 = 0 ∧ mag false true 309 = 0 := by decide

theorem witness_WordsRepeatWithTheCarrier :
    4 % 16 = 4084 % 16 ∧ 0 / 16 = 15 / 16
      ∧ mag ((0#3).getLsbD 1) ((0#3).getLsbD 0) 0 = mag ((0#3).getLsbD 1) ((0#3).getLsbD 0) 15 := by
  decide

/-- For `ShuffleBitMap`: the least and the greatest bit that is never set. -/
theorem witness_ShuffleBitMap : (shuffle 0xFF#8).getLsbD 4 = false ∧ (shuffle 0xFF#8).getLsbD 15 = false := by
  decide

/-- For `SeqMakesOneTransition` and both cases of `SeqCompletesInEveryState`. -/
theorem witness_msglen : 1 ≤ start.msglen.toNat ∧ start.msglen ≠ 0#16 ∧ State.reset.msglen = 0#16 := by
  decide

/-- A flag word with bit 8 set: the limit reached, not reached, and none; then bit 8 clear. -/
theorem witness_PollOutcome_waitf :
    (∀ e ∈ (polling [0xAF#8, 0x81#8] 2).sb, e.partlyCovers start.base = false)
      ∧ ((polling [0xAF#8, 0x81#8] 2).loadHalf start.base).getLsbD 8 = true
      ∧ ((polling [0xAF#8, 0x80#8] 2).loadHalf start.base).getLsbD 8 = false
      ∧ { polling [0xAF#8, 0x81#8] 2 with waitlim := 1#32 }.waitlim.toNat ≤ min (0 + 1) (2 ^ 32 - 1)
      ∧ min ((0#32).toNat + 1) (2 ^ 32 - 1) < { start with waitlim := 2#32 }.waitlim.toNat
      ∧ (polling [0xAF#8, 0x81#8] 2).waitlim = 0#32 := by decide

theorem witness_PollOutcome_waita :
    (({ start with cmdReg := 4#32 }).loadCmd != 0#32) = true ∧ (start.loadCmd != 0#32) = false := by decide

theorem witness_PollsLoadForwardedOrShared :
    (∀ e ∈ [PendingStore.data 0x20000002#32 1#16, .cmd 4#32],
        e.loc ≠ .data start.base ∧ e.partlyCovers start.base = false)
      ∧ { start with sb := [.data start.base 1#16, .data start.base 2#16, .cmd 4#32] }.sb
          = [.data start.base 1#16] ++ .data start.base 2#16 :: [.cmd 4#32]
      ∧ (∀ e ∈ [PendingStore.cmd 4#32], e.loc ≠ .data start.base)
      ∧ { start with sb := [.cmd 4#32, .data start.base 1#16] }.sb
          = [] ++ .cmd 4#32 :: [.data start.base 1#16]
      ∧ (∀ e ∈ [PendingStore.data start.base 1#16], e.loc ≠ .cmd)
      ∧ (∃ e ∈ { start with sb := [.data 0x20000001#32 0#16] }.sb, e.partlyCovers start.base = true) := by
  decide

/-- For `FILLF`, `POSTF` and `FILLA`: the last pass with just the bytes they need mapped, and the pass index
that faults. -/
theorem witness_block_operations :
    { start with j := 312#9 }.j.toNat < 313 ∧ 313 ≤ { start with j := 313#9 }.j.toNat
      ∧ { start with mapBytes := 8192 }.mapped start.base.toNat 8192 = true
      ∧ { start with mapBytes := 2 }.mapped start.base.toNat 2 = true
      ∧ { start with fc := 3#32 }.mapped (start.base.toNat + 8192 * ((3#32).toNat % 4)) 8192 = true := by
  decide

theorem witness_PostaHandsOffTheSlot : { start with base := 0xFFFF8000#32 }.startOk = true := by decide

theorem witness_FenceHoldsUntilBufferEmpty :
    start.sb = [] ∧ { fetching 8 with sb := [.cmd 4#32] }.sb ≠ []
      ∧ decode { fetching 8 with sb := [.cmd 4#32] }.fetch = .ok .fence
      ∧ { fetching 8 with sb := [.cmd 4#32] }.turns = [.producer] :=
  ⟨rfl, by simp, rfl, rfl⟩

/-- With one byte too few mapped, the last byte of the block of `FILLF` and of the store of `POSTF` is
outside, and of the block of `FILLA` in the last slot. -/
theorem witness_StoresOutsideTheRegionAreStuck :
    { start with j := 312#9 }.j.toNat < 313
      ∧ exec .fillf { start with j := 312#9, mapBytes := 8191 } = .fault .outsideRegion
      ∧ ¬ (0x20001FFF < start.mapBase.toNat + 8191) ∧ 0x20001FFF < start.base.toNat + 8192
      ∧ exec .postf { start with j := 312#9, mapBytes := 1 } = .fault .outsideRegion
      ∧ exec .filla { start with j := 312#9, fc := 3#32, mapBytes := 32767 } = .fault .outsideRegion :=
  ⟨by decide, rfl, by decide, by decide, rfl, rfl⟩

theorem witness_LoopjAdvancesAndBranches :
    { start with j := 311#9 }.j.toNat < 312 ∧ { start with j := 312#9 }.j.toNat = 312
      ∧ 313 ≤ { start with j := 313#9 }.j.toNat := by decide

theorem witness_HaltStopsTheProducer :
    start.halted = true ∧ { start with sb := [.cmd 4#32] }.sb = .cmd 4#32 :: []
      ∧ { start with turns := [.drain 0] }.turns = .drain 0 :: [] := by decide

theorem witness_SelfLoopRunsThePassesLeft :
    (fetching 9).halted = false ∧ { fetching 9 with j := 311#9 }.j.toNat < 313
      ∧ decode (fetching 9).fetch = .ok (.loopj (fetching 9).pc)
      ∧ (fetching 9).turns = List.replicate 1 .producer ∧ 1 < 313 - 311
      ∧ { fetching 9 with turns := List.replicate 2 .producer }.turns = List.replicate 2 .producer
      ∧ 2 = 313 - 311 := ⟨rfl, by decide, rfl, rfl, by decide, rfl, rfl⟩

theorem witness_BoundedWaitFaultsAtTheLimit :
    (fetching 6).halted = false ∧ (fetching 6).fault = false ∧ (fetching 6).wcnt = 0#32
      ∧ { fetching 6 with waitlim := 2#32 }.waitlim ≠ 0#32 ∧ decode (fetching 6).fetch = .ok .waita
      ∧ { fetching 6 with cmdReg := 4#32 }.loadCmd ≠ 0#32
      ∧ (fetching 6).turns = List.replicate 1 .producer ∧ 1 < (2#32).toNat
      ∧ { fetching 6 with turns := List.replicate 2 .producer }.turns = List.replicate 2 .producer
      ∧ 2 = (2#32).toNat :=
  ⟨rfl, rfl, rfl, by decide, rfl, by decide, rfl, by decide, rfl, rfl⟩

theorem witness_UnboundedPollNeverFaults :
    (fetching 6).halted = false ∧ (fetching 6).fault = false ∧ (fetching 6).waitlim = 0#32
      ∧ decode (fetching 6).fetch = .ok .waita ∧ { fetching 6 with cmdReg := 4#32 }.loadCmd ≠ 0#32
      ∧ (fetching 6).turns = List.replicate 1 .producer := ⟨rfl, rfl, rfl, rfl, by decide, rfl⟩

/-- For `ProducerStoresEnterTheBufferOnly` and `EachRegisterHasItsWriters`: a storing operation, one that
stores nothing, and one that changes `J`. -/
theorem witness_operations_complete :
    (∃ t, exec .posta start = .next t) ∧ (∃ t, exec (.jmp 255#8) start = .next t)
      ∧ ∃ t, exec (.loopj 0#8) start = .next t ∧ t.j ≠ start.j :=
  ⟨⟨_, rfl⟩, ⟨_, rfl⟩, _, rfl, by decide⟩

theorem witness_OperationFaultsArePrecise :
    start.fault = false
      ∧ (∃ t, exec (.loopj 0#8) { start with j := 313#9 } = .next t ∧ t.fault = true)
      ∧ ∃ t, exec .waita { start with cmdReg := 4#32, waitlim := 1#32 } = .next t ∧ t.fault = true :=
  ⟨rfl, ⟨_, rfl, rfl⟩, _, rfl, by decide⟩

theorem witness_FaultIsStickyUntilReset :
    (start.raise .init).fault = true ∧ (start.raise .init).halted = true
      ∧ { start.raise .init with turns := [.hostWrite 0 4 1#32] }.nextTurn ≠ .reset
      ∧ ∃ t, step { start.raise .init with turns := [.hostWrite 0 4 1#32] } = .next t :=
  ⟨rfl, rfl, by decide, _, rfl⟩

theorem witness_SharedMemoryHasItsWriters :
    (∃ t, step { start with turns := [.reset] } = .next t)
      ∧ (∃ t, step { start with turns := [.hostRead 0x3FFC 4] } = .next t)
      ∧ (∃ t, step { start with turns := [.hostWrite 0 4 1#32] } = .next t)
      ∧ (∃ t, step (fetching 7) = .next t) ∧ (fetching 7).halted = false
      ∧ ∃ t, step { fetching 7 with turns := [.platformWrite 0xFFFFFFFF#32 1#8] } = .next t :=
  ⟨⟨_, rfl⟩, ⟨_, rfl⟩, ⟨_, rfl⟩, ⟨_, rfl⟩, rfl, _, rfl⟩

theorem witness_ConfigurationFixedWhileRunning :
    (fetching 8).halted = false
      ∧ { fetching 8 with turns := [.hostWrite 0x01C 4 5#32] }.nextTurn ≠ .reset
      ∧ ∃ t, step { fetching 8 with turns := [.hostWrite 0x01C 4 5#32] } = .next t :=
  ⟨rfl, by decide, _, rfl⟩

theorem witness_OnlyProducerOrResetStopsTheProducer :
    (fetching 0xF).halted = false ∧ ∃ t, step (fetching 0xF) = .next t ∧ t.halted = true :=
  ⟨rfl, _, rfl, rfl⟩

theorem witness_OnlyAHostStartReleasesTheProducer :
    start.halted = true
      ∧ ∃ t, step { start with turns := [.hostWrite 0 4 1#32] } = .next t ∧ t.halted = false :=
  ⟨rfl, _, rfl, by decide⟩

theorem witness_StartChecksTheConfiguration :
    (1#32).getLsbD 0 = true ∧ start.halted = true ∧ start.fault = false
      ∧ (1 ≤ start.msglen.toNat ∧ (0xFFFF8000#32).toNat ≠ 0 ∧ (0xFFFF8000#32).toNat % 4 = 0
        ∧ (0xFFFF8000#32).toNat + 32768 ≤ 2 ^ 32)
      ∧ ¬ ((0xFFFF8004#32).toNat + 32768 ≤ 2 ^ 32)
      ∧ { start with turns := [.hostWrite 0 4 1#32] }.turns = [.hostWrite 0 4 1#32] := by decide

theorem witness_OtherControlWritesAreIgnored :
    (0xFFFFFFFE#32).getLsbD 0 = false ∧ (fetching 8).halted = false ∧ (start.raise .init).fault = true
      ∧ { start with turns := [.hostWrite 0 4 0xFFFFFFFE#32] }.turns = [.hostWrite 0 4 0xFFFFFFFE#32] := by
  decide

/-- The store buffer that the witnesses of the drain use. -/
def pending : State :=
  { start with sb := [.data 8#32 0x0081#16, .data 8#32 0x8181#16, .data 10#32 0x40AF#16, .cmd 8#32] }

theorem witness_DrainPerformsOneStore :
    pending.sb[2]? = some (.data 10#32 0x40AF#16)
      ∧ (∀ e ∈ pending.sb.take 2, e.loc ≠ .data 10#32)
      ∧ pending.sb[3]? = some (.cmd 8#32) ∧ (∀ e ∈ pending.sb.take 3, e.loc ≠ .cmd)
      ∧ pending.sb[1]? = some (.data 8#32 0x8181#16)
      ∧ (∃ o ∈ pending.sb.take 1, o.loc = (PendingStore.data 8#32 0x8181#16).loc)
      ∧ pending.sb[4]? = none
      ∧ { pending with turns := [.drain 2] }.turns = [.drain 2] := by decide

theorem witness_DrainPreservesProducerLoads :
    (∀ e ∈ pending.sb, e.issued = true) ∧ (0xFFFFFFFE#32).toNat % 2 = 0 := by decide

theorem witness_EveryDrainOrderEndsAlike :
    (∀ e ∈ pending.sb, e.issued = true)
      ∧ ∃ t, Sys2Proof.core.run 4 { pending with turns := [3, 2, 0, 0].map .drain } = .next t
        ∧ t.sb = [] := ⟨by decide, _, rfl, rfl⟩

theorem witness_FairDrainLetsAFenceComplete :
    (fetching 8).halted = false ∧ decode (fetching 8).fetch = .ok .fence
      ∧ { fetching 8 with sb := pending.sb, turns := [] }.turns = []
      ∧ { fetching 8 with
          sb := pending.sb, turns := List.replicate 4 (Turn.drain 0) ++ [Turn.producer] }.turns
        = List.replicate pending.sb.length (Turn.drain 0) ++ [Turn.producer]
      ∧ ∃ u, Sys2Proof.core.run 1 (fetching 7) = .next u ∧ u.sb ≠ [] :=
  ⟨rfl, rfl, rfl, rfl, _, rfl, by decide⟩

theorem witness_ConsumerTakesTheHandoff :
    start.cproto = .addr ∧ start.consumer = .idle ∧ { start with cmdReg := 4#32 }.cmdReg ≠ 0#32
      ∧ start.cmdReg = 0#32 ∧ { start with turns := [.consumer true] }.turns = [.consumer true] := by
  decide

theorem witness_FlagConsumerBeginsAndFrees :
    { start with cproto := .flag }.cproto = .flag ∧ start.consumer = .idle
      ∧ ((polling [0xAF#8, 0x81#8] 2).halfAt start.mapBase).getLsbD 8 = true
      ∧ ((polling [0xAF#8, 0x80#8] 2).halfAt start.mapBase).getLsbD 8 = false
      ∧ { start with consumer := .reading start.mapBase 4096 }.consumer = .reading start.mapBase 4096
      ∧ { start with turns := [.consumer false] }.turns = [.consumer false] := by decide

theorem witness_ConsumerEmitsTheBlockItReads :
    start.cproto = .addr
      ∧ { start with consumer := .reading 0x20002000#32 0 }.consumer = .reading 0x20002000#32 0
      ∧ start.buf = []
      ∧ { start with turns := List.replicate 4097 (.consumer true) }.turns
        = List.replicate 4097 (.consumer true)
      ∧ { start with turns := List.replicate 4096 (.consumer true) }.turns
        = List.replicate 4096 (.consumer true)
      ∧ { start with cproto := .flag, consumer := .reading start.mapBase 4095 }.consumer
        = .reading start.mapBase 4095 ∧ 4095 < 4096
      ∧ { start with turns := [.consumer true] }.turns = [.consumer true] :=
  ⟨rfl, rfl, rfl, rfl, rfl, rfl, by decide, rfl⟩

theorem witness_ResetSetsEveryBlockRegister : { pending with turns := [.reset] }.turns = [.reset] := by
  decide

/-- The offsets at the ends of the port's ranges; the state is any with that read as its next turn. -/
theorem witness_HostReadsTheRegisterMap :
    { start with turns := [.hostRead 0x3FFC 4] }.turns = [.hostRead 0x3FFC 4]
      ∧ 0x3FFC % 4 = 0 ∧ 0x3FFC < 0x4000 ∧ 0x7FC = 0x400 + 4 * (255 : Fin 256).val
      ∧ 0x3FFC = 0x2000 + 4 * (2047 : Fin 2048).val ∧ (0x028 ≤ 0x3FC ∧ 0x3FC < 0x400)
      ∧ (0x800 ≤ 0x1FFC ∧ 0x1FFC < 0x2000) := by decide

theorem witness_HostWritesConfigurationWhileHalted :
    (fetching 8).halted = false ∧ start.halted = true
      ∧ { start with turns := [.hostWrite 0x01C 4 4#32] }.turns = [.hostWrite 0x01C 4 4#32]
      ∧ { start with turns := [.hostWrite 0x020 4 4#32] }.turns = [.hostWrite 0x020 4 4#32]
      ∧ { start with turns := [.hostWrite 0x024 4 4#32] }.turns = [.hostWrite 0x024 4 4#32]
      ∧ { start with turns := [.hostWrite 0x7FC 4 4#32] }.turns
          = [.hostWrite (0x400 + 4 * (255 : Fin 256).val) 4 4#32]
      ∧ { start with turns := [.hostWrite 0x3FFC 4 4#32] }.turns
          = [.hostWrite (0x2000 + 4 * (2047 : Fin 2048).val) 4 4#32] := by decide

theorem witness_HostAccessRules :
    ¬ (4 = 4 ∧ 0x4000 % 4 = 0 ∧ 0x4000 < 0x4000) ∧ ¬ (2 = 4 ∧ 0 % 4 = 0 ∧ 0 < 0x4000)
      ∧ { start with turns := [.hostRead 0x4000 4] }.turns = [.hostRead 0x4000 4]
      ∧ { start with turns := [.hostWrite 0x018 4 1#32] }.turns = [.hostWrite 0x018 4 1#32]
      ∧ (0x004 ≤ 0x018 ∧ 0x018 ≤ 0x018) := by decide

theorem witness_LaunchEstablishesThePremises :
    launchOk 0xFFFF8000#32 32768 .addr = true ∧ launchOk 0xFFFF8000#32 8192 .flag = true
      ∧ launchOk 0xFFFF8000#32 32769 .addr = false ∧ start.halted = true ∧ (fetching 8).halted = false
      ∧ { start with turns := [.launch 0xFFFF8000#32 32768 .addr] }.turns
        = [.launch 0xFFFF8000#32 32768 .addr] := by decide

/-- The invariant holds in the common start state with the producer running. -/
theorem fetching_inv : (fetching 5).Inv where
  memory := by decide
  pass := by decide
  variant := rfl
  running := fun _ => by decide
  stopped := fun h => by cases h
  recorded := ⟨rfl, rfl⟩
  polling := fun h => by cases h
  pending := fun e he => by cases he
  reading := rfl
  output := fun b hb => by cases hb

theorem witness_EveryStepKeepsInvariant :
    (fetching 5).Inv ∧ ∃ t, step (fetching 5) = .next t := ⟨fetching_inv, _, rfl⟩

theorem witness_RunningProducerIsNeverRefused :
    (fetching 5).Inv ∧ (fetching 5).nextTurn = .producer ∧ (fetching 5).mapBase = (fetching 5).base
      ∧ 32768 ≤ (fetching 5).mapBytes := ⟨fetching_inv, rfl, rfl, by decide⟩

end Sys2Proof.Tests
end

section
/-! Block reset (10_state.md R47): what a fresh program store and message store hold, and the settlement
of the statement about the reset turn. -/

namespace Sys2Proof.Machine

/-- The entries of a program store as a list. -/
theorem programOf_toList (ws : List Word) :
    (programOf ws).toList = (ws ++ List.replicate 256 0x00000000#32).take 256 := rfl

/-- The words a program store is made of stand at its front. -/
theorem programOf_toList_take {ws : List Word} (h : ws.length ≤ 256) :
    (programOf ws).toList.take ws.length = ws := by
  rw [programOf_toList, List.take_take, Nat.min_eq_left h, List.take_left]

/-- Past its words a program store holds `0x00000000`. -/
theorem programOf_getElem_of_le {ws : List Word} {k : Nat} (hk : k < 256) (h : ws.length ≤ k) :
    (programOf ws)[k] = 0x00000000#32 := by
  rw [← Vector.getElem_toList (by simpa using hk)]
  simp only [programOf_toList, List.getElem_take, List.getElem_append_right h,
    List.getElem_replicate]

/-- Every message bit is 0 after a block reset (10_state.md R33). -/
@[simp] theorem State.blockReset_msgBit (s : State) (k : BitVec 16) :
    s.blockReset.msgBit k = false := by
  simp [State.msgBit, State.reset]

/-- A block reset leaves shared memory as it reads (70_reset_and_hazards.md R280). -/
theorem State.sameShared_blockReset (s : State) : s.sameShared s.blockReset :=
  ⟨State.byteAt_congr s.blockReset_mem, s.blockReset_cmdReg⟩

/-- A step in an explicit reset turn. -/
theorem step_reset {s : State} {ts : List Turn} (h : s.turns = .reset :: ts) :
    step s = .next ({ s with turns := ts }).blockReset := by
  rw [step_turn h, takeTurn]

/-- Settles O53: the step is `blockReset`, whose registers are those of `State.reset`; the two stores
and shared memory have lemmas of their own. -/
theorem resetSetsEveryBlockRegister : Obligations.ResetSetsEveryBlockRegister := by
  intro s ts h
  refine ⟨_, step_reset h, ?registers, ?scheduler, ?halted, ?status, ?config, ⟨?program, ?rest⟩,
    ?message, ?buffer, ?shared, ?others⟩
  case registers => exact ⟨rfl, rfl, rfl, rfl, rfl, rfl⟩
  case scheduler => exact ⟨rfl, rfl, rfl, rfl, rfl⟩
  case halted => rfl
  case status => exact ⟨rfl, rfl, rfl, rfl⟩
  case config => exact ⟨rfl, rfl, rfl⟩
  case program => exact programOf_toList_take (ws := Config.addressProgram) (by decide)
  case rest => exact fun k hk => programOf_getElem_of_le (ws := Config.addressProgram) k.isLt hk
  case message => exact State.blockReset_msgBit _
  case buffer => rfl
  case shared => exact State.sameShared_blockReset { s with turns := ts }
  case others => exact ⟨rfl, rfl, rfl, rfl, rfl, rfl, rfl⟩

end Sys2Proof.Machine
end

section
/-! The operation words (30_encoding.md R91 to R103): everything the decoder answers, said once for every
word and tied to the table of formats and to the encoder, and the settlements that follow from it. -/

namespace Sys2Proof

/-- What the decoder may answer to a word, by the table of formats (30_encoding.md R95, R97, R100). -/
inductive DecodeAnswer (w : Word) : Except DecodeError Instr → Prop where
  /-- R100 (a): the opcode has no format. -/
  | opcodeZero (hf : formatOf (opField w) = none) : DecodeAnswer w (.error .opcodeZero)
  /-- R100 (b): a reserved bit of the opcode's format is 1. -/
  | reservedBitSet {f : Format} (hf : formatOf (opField w) = some f)
      (hr : w &&& f.reservedMask ≠ 0#32) : DecodeAnswer w (.error .reservedBitSet)
  /-- R97: an operation whose one spelling is the word. -/
  | legal {f : Format} {i : Instr} (hf : formatOf (opField w) = some f)
      (hr : w &&& f.reservedMask = 0#32) (hw : encode i = w) : DecodeAnswer w (.ok i)

section
variable {w : Word} {op : BitVec 4}

/-- The reserved-field test of a format answers by the table, when the fields' encoding is the word. -/
theorem ifReservedZero_answer {f : Format} {n : Nat} {r : BitVec n} {i : Instr}
    (hf : formatOf (opField w) = some f) (hr : w &&& f.reservedMask = 0#32 ↔ r = 0#n)
    (hw : r = 0#n → encode i = w) : DecodeAnswer w (ifReservedZero r i) := by
  by_cases h : r = 0#n
  · rw [ifReservedZero_ok h]
    exact .legal hf (hr.2 h) (hw h)
  · rw [ifReservedZero_error h]
    exact .reservedBitSet hf (mt hr.1 h)

/-! Format by format: where the encoder writes an opcode's operations in a format, the decoder of that
format answers its words by the table. -/

theorem decodeN_answer {i : Instr} (ho : opField w = op) (hf : formatOf op = some .N)
    (hi : encode i = encodeN op) : DecodeAnswer w (decodeN w i) := by
  subst ho
  exact ifReservedZero_answer hf (reservedMask_iff w .N) fun h => hi.trans (encodeN_opField h)

theorem decodeT_answer {mk : BitVec 8 → Instr} (ho : opField w = op) (hf : formatOf op = some .T)
    (hi : ∀ tgt, encode (mk tgt) = encodeT op tgt) : DecodeAnswer w (decodeT w mk) := by
  subst ho
  exact ifReservedZero_answer hf (reservedMask_iff w .T) fun h => (hi _).trans (encodeT_tgtField h)

theorem decodeL_answer {mk : BitVec 7 → Instr} (ho : opField w = op) (hf : formatOf op = some .L)
    (hi : ∀ idx, encode (mk idx) = encodeL op idx) : DecodeAnswer w (decodeL w mk) := by
  subst ho
  exact ifReservedZero_answer hf (reservedMask_iff w .L) fun h => (hi _).trans (encodeL_idxField h)

theorem decodeX_answer {mk : BitVec 8 → Instr} (ho : opField w = op) (hf : formatOf op = some .X)
    (hi : ∀ xin, encode (mk xin) = encodeX op xin) : DecodeAnswer w (decodeX w mk) := by
  subst ho
  exact ifReservedZero_answer hf (reservedMask_iff w .X) fun h => (hi _).trans (encodeX_xinField h)

theorem decodeG_answer {mk : BitVec 3 → BitVec 9 → BitVec 12 → Instr} (ho : opField w = op)
    (hf : formatOf op = some .G) (hi : ∀ var pj si, encode (mk var pj si) = encodeG op var pj si) :
    DecodeAnswer w (decodeG w mk) := by
  subst ho
  exact ifReservedZero_answer hf (reservedMask_iff w .G) fun h =>
    (hi _ _ _).trans (encodeG_fieldsOf h)

end

/-- The decoder answers by the table of formats, row by row of the opcode map (30_encoding.md R95). -/
theorem decode_answer (w : Word) : DecodeAnswer w (decode w) := by
  have opIs {op : BitVec 4} (h : (opField w).toNat = op.toNat) : opField w = op :=
    BitVec.eq_of_toNat_eq h
  unfold decode
  split
  case h_1 h => exact .opcodeZero (by rw [opIs (op := 0x0#4) h]; rfl)
  case h_2 h => exact decodeN_answer (opIs (op := 0x1#4) h) rfl rfl
  case h_3 h => exact decodeN_answer (opIs (op := 0x2#4) h) rfl rfl
  case h_4 h => exact decodeN_answer (opIs (op := 0x3#4) h) rfl rfl
  case h_5 h => exact decodeN_answer (opIs (op := 0x4#4) h) rfl rfl
  case h_6 h => exact decodeN_answer (opIs (op := 0x5#4) h) rfl rfl
  case h_7 h => exact decodeN_answer (opIs (op := 0x6#4) h) rfl rfl
  case h_8 h => exact decodeN_answer (opIs (op := 0x7#4) h) rfl rfl
  case h_9 h => exact decodeN_answer (opIs (op := 0x8#4) h) rfl rfl
  case h_10 h => exact decodeT_answer (opIs (op := 0x9#4) h) rfl fun _ => rfl
  case h_11 h => exact decodeT_answer (opIs (op := 0xA#4) h) rfl fun _ => rfl
  case h_12 h => exact decodeL_answer (opIs (op := 0xB#4) h) rfl fun _ => rfl
  case h_13 h => exact decodeX_answer (opIs (op := 0xC#4) h) rfl fun _ => rfl
  case h_14 h => exact decodeG_answer (opIs (op := 0xD#4) h) rfl fun _ _ _ => rfl
  case h_15 h => exact decodeG_answer (opIs (op := 0xE#4) h) rfl fun _ _ _ => rfl
  case h_16 =>
    have hlt := (opField w).isLt
    have h : (opField w).toNat = 15 := by
      simp only [imp_false] at *
      omega
    exact decodeN_answer (opIs (op := 0xF#4) h) rfl rfl

/-- A 1 in a reserved bit of the opcode's format makes a word illegal (30_encoding.md R97). -/
theorem decode_of_reservedBitSet {w : Word} {f : Format} (hf : formatOf (opField w) = some f)
    (hr : w &&& f.reservedMask ≠ 0#32) : decode w = .error .reservedBitSet := by
  have ha := decode_answer w
  generalize decode w = r at ha ⊢
  cases ha with
  | opcodeZero hf' => cases hf.symm.trans hf'
  | reservedBitSet => rfl
  | legal hf' hr' =>
    cases hf.symm.trans hf'
    exact absurd hr' hr

/-- A word that decodes is the word the encoder writes (30_encoding.md R97). -/
theorem encode_of_decode {w : Word} {i : Instr} (h : decode w = .ok i) : encode i = w := by
  have ha := h ▸ decode_answer w
  cases ha with
  | legal _ _ hw => exact hw

/-- Settles O2: `decode_answer` leaves one answer to a word with a reserved bit set, and one spelling to
an answered operation. -/
theorem reservedBitsLeaveOneSpelling : Obligations.ReservedBitsLeaveOneSpelling :=
  fun _ => ⟨fun _ => decode_of_reservedBitSet, fun _ => encode_of_decode⟩

end Sys2Proof

namespace Sys2Proof.Machine

/-- `GEN` past the last pass takes the `ARG_RANGE` fault in every state (41_modulator.md R134). -/
theorem exec_gen_of_le {pj : BitVec 9} (h : 313 ≤ pj.toNat) (var : BitVec 3) (si : BitVec 12)
    (s : State) : exec (.gen var pj si) s = .next (s.raise .argRange) := by
  rw [exec, execGen, if_pos (outOfPasses_of_le h)]

/-- Settles O4: each word is decoded by evaluation, and the `GEN` of pass 313 is out of range by
`exec_gen_of_le`. -/
theorem encodingExamplesDecode : Obligations.EncodingExamplesDecode :=
  ⟨rfl, rfl, rfl, rfl, rfl, rfl, rfl, rfl, rfl, rfl, rfl,
    exec_gen_of_le (by decide) _ _, rfl, rfl⟩

end Sys2Proof.Machine
end

section
/-! The sine ROM (40_sine_table.md R110 to R114): the shape of its table and the bounds that follow from it,
the word and the step of `LUT`, and the settlements of the two statements of this section. A format's
reserved bits are named by their lowest position once, for the reserved-bit clause of any operation. -/

namespace Sys2Proof

/-- The lowest reserved bit of a format (30_encoding.md R91). -/
def Format.reservedFrom : Format → Nat
  | .N => 4
  | .T => 12
  | .L => 11
  | .X => 12
  | .G => 28

/-- The mask of R97 finds a reserved bit exactly where the word has a 1 from `reservedFrom` up. -/
theorem and_reservedMask_ne_zero_iff (w : Word) (f : Format) :
    w &&& f.reservedMask ≠ 0#32 ↔ w.toNat / 2 ^ f.reservedFrom ≠ 0 := by
  rw [Ne, reservedMask_iff]
  cases f with
  | N => exact (Machine.bitsFrom_ne_zero (lo := 4) rfl).symm
  | T => exact (Machine.bitsFrom_ne_zero (lo := 12) rfl).symm
  | L => exact (Machine.bitsFrom_ne_zero (lo := 11) rfl).symm
  | X => exact (Machine.bitsFrom_ne_zero (lo := 12) rfl).symm
  | G => exact (Machine.bitsFrom_ne_zero (lo := 28) rfl).symm

/-- The word of format L as a number. -/
theorem encodeL_eq_ofNat (op : BitVec 4) (idx : BitVec 7) :
    encodeL op idx = BitVec.ofNat 32 (2 ^ 4 * idx.toNat + op.toNat) := by
  apply BitVec.eq_of_toNat_eq
  have hidx := idx.isLt
  have hop := op.isLt
  simp only [encodeL, BitVec.toNat_cast, Machine.toNat_append_add, BitVec.toNat_ofNat]
  omega

/-- `LUT` is read back from its word, whatever the index. -/
theorem decode_encode_lut (idx : BitVec 7) : decode (encode (.lut idx)) = .ok (.lut idx) := by
  obtain ⟨hop, hreserved, hidx⟩ := encodeL_fields 0xB#4 idx
  calc decode (encodeL 0xB#4 idx)
      = decodeL (encodeL 0xB#4 idx) .lut := by rw [decode, hop]; rfl
    _ = .ok (.lut idx) := by rw [decodeL, ifReservedZero_ok hreserved, hidx]

end Sys2Proof

namespace Sys2Proof.Machine

/-- A reserved bit of the opcode's format raises `ILLEGAL_OP` (30_encoding.md R100). -/
theorem reservedBitsRaise_of_formatOf {op : BitVec 4} {f : Format} (hf : formatOf op = some f) :
    ReservedBitsRaise op f.reservedFrom := by
  intro s hrunning hop hbit
  exact producerTurn_error hrunning
    (decode_of_reservedBitSet (hop ▸ hf) ((and_reservedMask_ne_zero_iff _ f).2 hbit))

/-- `LUT` completes in every state (40_sine_table.md R113). -/
theorem exec_lut (idx : BitVec 7) (s : State) :
    exec (.lut idx) s = .next (s.complete (BitVec.ofInt 32 (sine idx.toNat))) := rfl

/-! ### The shape of the table

Four facts are read off the constants; everything else R112 says follows from them. -/

/-- The first quarter rises (R112). -/
theorem sine_lt_succ : ∀ k < 32, sine k < sine (k + 1) := by decide

/-- The first half is symmetric about its peak (R112). -/
theorem sine_peak_add : ∀ k < 33, sine (32 + k) = sine (32 - k) := by decide

/-- The second half is the first one negated (R112). -/
theorem sine_add_half : ∀ i < 64, sine (i + 64) = -sine i := by decide

/-- The corners of the period (R112). -/
theorem sine_corners : sine 0 = 0 ∧ sine 32 = 1024 ∧ sine 64 = 0 ∧ sine 96 = -1024 := by decide

/-! ### What follows from the shape -/

/-- The first quarter is strictly increasing. -/
theorem sine_lt_sine {a b : Nat} (hab : a < b) (hb : b ≤ 32) : sine a < sine b := by
  induction b, hab using Nat.le_induction with
  | base => exact sine_lt_succ a hb
  | succ b _ ih => exact (ih (by omega)).trans (sine_lt_succ b hb)

/-- The first half read backwards from its end. -/
theorem sine_half_sub {k : Nat} (hk : k ≤ 64) : sine (64 - k) = sine k := by
  rcases Nat.le_total k 32 with h | h
  · have := sine_peak_add (32 - k) (by omega)
    rwa [show 32 + (32 - k) = 64 - k by omega, show 32 - (32 - k) = k by omega] at this
  · have := sine_peak_add (k - 32) (by omega)
    rw [show 32 + (k - 32) = k by omega, show 32 - (k - 32) = 64 - k by omega] at this
    exact this.symm

/-- The first quarter stays between the corners at its ends and meets the upper one only at its end. -/
theorem sine_firstQuarter {k : Nat} (hk : k ≤ 32) :
    0 ≤ sine k ∧ sine k ≤ 1024 ∧ (sine k = 1024 ↔ k = 32) := by
  obtain ⟨zero, peak, -, -⟩ := sine_corners
  have lower : 0 < k → sine 0 < sine k := fun h => sine_lt_sine h hk
  have upper : k < 32 → sine k < sine 32 := fun h => sine_lt_sine h le_rfl
  rcases Nat.eq_zero_or_pos k with rfl | h0
  · omega
  · rcases Nat.eq_or_lt_of_le hk with rfl | h32 <;> omega

/-- The first half has the first quarter's bounds, by its symmetry. -/
theorem sine_firstHalf {k : Nat} (hk : k ≤ 64) :
    0 ≤ sine k ∧ sine k ≤ 1024 ∧ (sine k = 1024 ↔ k = 32) := by
  rcases Nat.le_total k 32 with h | h
  · exact sine_firstQuarter h
  · have hq := sine_firstQuarter (k := 64 - k) (by omega)
    rw [sine_half_sub hk] at hq
    omega

/-- The amplitude range of the whole table and the two places where it is attained (R112). -/
theorem sine_range {k : Nat} (hk : k < 128) :
    -1024 ≤ sine k ∧ sine k ≤ 1024 ∧ (sine k = 1024 ↔ k = 32) ∧ (sine k = -1024 ↔ k = 96) := by
  by_cases h : k < 64
  · have := sine_firstHalf h.le
    omega
  · obtain ⟨i, rfl⟩ : ∃ i, k = i + 64 := ⟨k - 64, by omega⟩
    have := sine_firstHalf (k := i) (by omega)
    rw [sine_add_half i (by omega)]
    omega

/-- Settles O13: the range and the reflection about the end of the half follow from the shape of the
table. -/
theorem sineTableInvariants : Obligations.SineTableInvariants :=
  ⟨sine_add_half, sine_corners, fun _ => sine_range, fun _ hk _ => sine_half_sub hk.le, sine_peak_add,
    sine_lt_succ⟩

/-- Settles O9: the effect is `exec_lut`, the reserved bits those of format L, and the number of the word
is the encoder's. -/
theorem lutWritesSineEntry : Obligations.LutWritesSineEntry := by
  obtain ⟨zero, peak, half, trough⟩ := sine_corners
  refine ⟨?effect, ?reserved, ?trough, ?peak, zero, half, ?encoding, ?spelling⟩
  case effect => exact exec_lut
  case reserved => exact reservedBitsRaise_of_formatOf (f := .L) rfl
  case trough => rw [trough]; rfl
  case peak => rw [peak]; rfl
  case encoding => exact fun idx => encodeL_eq_ofNat 0xB#4 idx ▸ decode_encode_lut idx
  case spelling => exact decode_encode_lut 32#7

end Sys2Proof.Machine
end

section
/-! The quadrature modulator (41_modulator.md R122 to R135): the symmetries of the mixer and the bounds that
follow from them, the envelope window by window, the range of the sample, the word of format G, the steps of
`DDS` and `GEN`, and the settlements of the statements of this section. -/

namespace Sys2Proof

/-- The word of format G as a number. -/
theorem encodeG_eq_ofNat (op : BitVec 4) (var : BitVec 3) (pj : BitVec 9) (si : BitVec 12) :
    encodeG op var pj si
      = BitVec.ofNat 32 (2 ^ 19 * pj.toNat + 2 ^ 7 * si.toNat + 2 ^ 4 * var.toNat + op.toNat) := by
  apply BitVec.eq_of_toNat_eq
  have hpj := pj.isLt
  have hsi := si.isLt
  have hvar := var.isLt
  have hop := op.isLt
  simp only [encodeG, BitVec.toNat_cast, Machine.toNat_append_add, BitVec.toNat_ofNat]
  omega

/-- The operands of format G are read back from its word, whatever the opcode. -/
theorem decodeG_encodeG (op : BitVec 4) (var : BitVec 3) (pj : BitVec 9) (si : BitVec 12)
    (mk : BitVec 3 → BitVec 9 → BitVec 12 → Instr) :
    decodeG (encodeG op var pj si) mk = .ok (mk var pj si) := by
  obtain ⟨-, hreserved, hvar, hpj, hsi⟩ := encodeG_fields op var pj si
  rw [decodeG, ifReservedZero_ok hreserved, hvar, hpj, hsi]

/-- `DDS` is read back from its word, whatever the operands. -/
theorem decode_encode_dds (var : BitVec 3) (pj : BitVec 9) (si : BitVec 12) :
    decode (encode (.dds var pj si)) = .ok (.dds var pj si) := by
  obtain ⟨hop, -⟩ := encodeG_fields 0xD#4 var pj si
  calc decode (encodeG 0xD#4 var pj si)
      = decodeG (encodeG 0xD#4 var pj si) .dds := by rw [decode, hop]; rfl
    _ = .ok (.dds var pj si) := decodeG_encodeG ..

/-- `GEN` is read back from its word, whatever the operands. -/
theorem decode_encode_gen (var : BitVec 3) (pj : BitVec 9) (si : BitVec 12) :
    decode (encode (.gen var pj si)) = .ok (.gen var pj si) := by
  obtain ⟨hop, -⟩ := encodeG_fields 0xE#4 var pj si
  calc decode (encodeG 0xE#4 var pj si)
      = decodeG (encodeG 0xE#4 var pj si) .gen := by rw [decode, hop]; rfl
    _ = .ok (.gen var pj si) := decodeG_encodeG ..

end Sys2Proof

namespace Sys2Proof.Machine

/-! ### The two wave indices

Half a period negates every lookup: 64 entries of the table for the baseband, 8 samples for the carrier. -/

/-- Half a period on, the table read modulo its length is negated (40_sine_table.md R112). -/
theorem sine_mod_antiperiodic : Function.Antiperiodic (fun k => sine (k % 128)) 64 := by
  intro k
  by_cases h : k % 128 < 64
  · have := sine_add_half (k % 128) h
    rwa [show k % 128 + 64 = (k + 64) % 128 by omega] at this
  · have := sine_add_half ((k + 64) % 128) (by omega)
    rw [show (k + 64) % 128 + 64 = k % 128 by omega] at this
    exact (neg_eq_iff_eq_neg.2 this).symm

/-- No table entry exceeds full scale. -/
theorem natAbs_sine_mod_le (k : Nat) : (sine (k % 128)).natAbs ≤ 1024 := by
  have := sine_range (k := k % 128) (by omega)
  omega

/-- Phase reversal negates the baseband sine (R122, R123). -/
theorem sigSin_add_half (s : Nat) : sigSin (s + 64) = -sigSin s := sine_mod_antiperiodic s

/-- Phase reversal negates the baseband cosine (R122, R123). -/
theorem sigCos_add_half (s : Nat) : sigCos (s + 64) = -sigCos s := by
  rw [sigCos, Nat.add_right_comm]
  exact congrArg Neg.neg (sine_mod_antiperiodic (s + 32))

/-- Half a carrier period negates the carrier sine (R124). -/
theorem carSin_antiperiodic : Function.Antiperiodic carSin 8 :=
  fun i => sine_mod_antiperiodic (8 * i)

/-- Half a carrier period negates the carrier cosine (R124). -/
theorem carCos_antiperiodic : Function.Antiperiodic carCos 8 := by
  intro i
  rw [carCos, carIdx, Nat.mul_add, Nat.add_right_comm]
  exact congrArg Neg.neg (sine_mod_antiperiodic (8 * i + 32))

/-! The four lookups of the mixer are entries of the table up to a sign, so within full scale. -/

theorem natAbs_sigSin_le (s : Nat) : (sigSin s).natAbs ≤ 1024 := natAbs_sine_mod_le s

theorem natAbs_sigCos_le (s : Nat) : (sigCos s).natAbs ≤ 1024 :=
  (Int.natAbs_neg _).trans_le (natAbs_sine_mod_le (s + 32))

theorem natAbs_carSin_le (i : Nat) : (carSin i).natAbs ≤ 1024 := natAbs_sine_mod_le (carIdx i)

theorem natAbs_carCos_le (i : Nat) : (carCos i).natAbs ≤ 1024 :=
  (Int.natAbs_neg _).trans_le (natAbs_sine_mod_le (carIdx i + 32))

/-- Two values within full scale have a product well within 32 bits (41_modulator.md R126). -/
theorem natAbs_mul_le_of_fullScale {x y : Int} (hx : x.natAbs ≤ 1024) (hy : y.natAbs ≤ 1024) :
    (x * y).natAbs ≤ 2 ^ 21 :=
  calc (x * y).natAbs = x.natAbs * y.natAbs := Int.natAbs_mul x y
    _ ≤ 1024 * 1024 := Nat.mul_le_mul hx hy
    _ ≤ 2 ^ 21 := by norm_num

/-! ### The mixer

Up to its sign the numerator depends on 20 baseband indices and 8 carrier phases only. -/

/-- The mixer's numerator by its two inputs, the baseband index and the sample (R125). -/
def mixAt (s i : Nat) : Int := carSin i * sigCos s - carCos i * sigSin s

theorem mixNum_eq_mixAt (phase : Bool) (j i : Nat) : mixNum phase j i = mixAt (sigIdx phase j i) i := rfl

/-- Phase reversal negates the numerator. -/
theorem mixAt_add_half (s i : Nat) : mixAt (s + 64) i = -mixAt s i := by
  rw [mixAt, mixAt, sigSin_add_half, sigCos_add_half]
  ring

/-- Half a carrier period negates the numerator. -/
theorem mixAt_antiperiodic (s : Nat) : Function.Antiperiodic (mixAt s) 8 := by
  intro i
  rw [mixAt, mixAt, carSin_antiperiodic, carCos_antiperiodic]
  ring

/-- Up to its sign the numerator repeats with half the carrier period. -/
theorem natAbs_mixAt_mod (s i : Nat) : (mixAt s (i % 8)).natAbs = (mixAt s i).natAbs := by
  have periodic : Function.Periodic (Int.natAbs ∘ mixAt s) 8 := fun i =>
    (congrArg Int.natAbs (mixAt_antiperiodic s i)).trans (Int.natAbs_neg _)
  exact periodic.map_mod_nat i

/-- Over a period without phase reversal the baseband index stays below 20, and reversal adds half a
period (R121, R122). -/
theorem sigIdx_eq {j i : Nat} (hj : j < 313) (hi : i < 4096) (phase : Bool) :
    ∃ s < 20, sigIdx phase j i = s + 64 * phase.toNat :=
  ⟨_, by omega, rfl⟩

/-- Up to its sign the numerator is one of 160 values (R126). -/
theorem natAbs_mixNum_eq {j i s : Nat} {phase : Bool} (h : sigIdx phase j i = s + 64 * phase.toNat) :
    (mixNum phase j i).natAbs = (mixAt s (i % 8)).natAbs := by
  rw [mixNum_eq_mixAt, h, natAbs_mixAt_mod]
  cases phase with
  | false => rfl
  | true => rw [Bool.toNat_true, Nat.mul_one, mixAt_add_half, Int.natAbs_neg]

/-- R126's evaluation of the 160 values. -/
theorem natAbs_mixAt_bound : ∀ s < 20, ∀ c < 8,
    (mixAt s c).natAbs ≤ 1048580 ∧ ((mixAt s c).natAbs = 1048580 ↔ s = 8 ∧ c = 5) := by
  decide

section
variable {j i : Nat} (hj : j < 313) (hi : i < 4096) (phase : Bool)
include hj hi

/-- The numerator's bound and the places where it is attained (R126). -/
theorem natAbs_mixNum_bound : (mixNum phase j i).natAbs ≤ 1048580
    ∧ ((mixNum phase j i).natAbs = 1048580 ↔
        sigIdx phase j i % 64 = 8 ∧ (i % 16 = 5 ∨ i % 16 = 13)) := by
  obtain ⟨s, hs, h⟩ := sigIdx_eq hj hi phase
  obtain ⟨bound, extreme⟩ := natAbs_mixAt_bound s hs (i % 8) (by omega)
  rw [natAbs_mixNum_eq h, h]
  refine ⟨bound, extreme.trans ?_⟩
  omega

/-- The division by 1024 brings the mixer's output within full scale (R126). -/
theorem natAbs_mix_le : (mix phase j i).natAbs ≤ 1024 := by
  obtain ⟨bound, -⟩ := natAbs_mixNum_bound hj hi phase
  rw [mix, Int.natAbs_tdiv]
  exact (Nat.div_le_div_right bound).trans (by norm_num)

end

/-! ### The envelope -/

/-- The envelope in the ramp-up window (R128). -/
theorem mag_rampUp {j : Nat} (h : j < 128) (down : Bool) : mag true down j = sine (j / 4) :=
  if_pos ⟨rfl, h⟩

/-- The envelope in the ramp-down window, which the ramp-up window does not meet (R128). -/
theorem mag_rampDown {j : Nat} (h : 186 ≤ j) (up : Bool) : mag up true j = sine ((312 - j) / 4) := by
  rw [mag, if_neg (by omega), if_pos ⟨rfl, h⟩]

/-- The envelope outside its windows (R128). -/
theorem mag_outside {up down : Bool} {j : Nat} (hu : up = false ∨ 128 ≤ j)
    (hd : down = false ∨ j < 186) : mag up down j = 1024 := by
  have notUp : ¬(up = true ∧ j < 128) := by
    rintro ⟨rfl, h⟩
    exact hu.elim nofun (Nat.not_le_of_lt h)
  have notDown : ¬(down = true ∧ 185 < j) := by
    rintro ⟨rfl, h⟩
    exact hd.elim nofun (Nat.not_lt_of_le h)
  rw [mag, if_neg notUp, if_neg notDown]

/-- The first quarter of the table without its peak, which the windows read. -/
theorem sine_window {k : Nat} (hk : k < 32) :
    0 ≤ sine k ∧ sine k ≤ 1023 ∧ (sine k = 0 ↔ k = 0) := by
  obtain ⟨zero, -⟩ := sine_corners
  obtain ⟨lower, upper, peak⟩ := sine_firstQuarter hk.le
  rcases Nat.eq_zero_or_pos k with rfl | h0
  · omega
  · have := sine_lt_sine h0 hk.le
    omega

/-- Everything the envelope can be. -/
theorem mag_cases (up down : Bool) (j : Nat) :
    (up = true ∧ j < 128 ∧ mag up down j = sine (j / 4))
    ∨ (down = true ∧ 186 ≤ j ∧ mag up down j = sine ((312 - j) / 4))
    ∨ ((up = false ∨ 128 ≤ j) ∧ (down = false ∨ j < 186) ∧ mag up down j = 1024) := by
  by_cases hu : up = false ∨ 128 ≤ j
  · by_cases hd : down = false ∨ j < 186
    · exact .inr (.inr ⟨hu, hd, mag_outside hu hd⟩)
    · obtain ⟨rfl, h⟩ : down = true ∧ 186 ≤ j := by simpa using hd
      exact .inr (.inl ⟨rfl, h, mag_rampDown h up⟩)
  · obtain ⟨rfl, h⟩ : up = true ∧ j < 128 := by simpa using hu
    exact .inl ⟨rfl, h, mag_rampUp h down⟩

/-- The envelope does not exceed full scale. -/
theorem natAbs_mag_le (up down : Bool) (j : Nat) : (mag up down j).natAbs ≤ 1024 := by
  rcases mag_cases up down j with ⟨-, hj, h⟩ | ⟨-, hj, h⟩ | ⟨-, -, h⟩
  · have := sine_window (k := j / 4) (by omega)
    omega
  · have := sine_window (k := (312 - j) / 4) (by omega)
    omega
  · omega

/-- The envelope is 0 on the four passes at the outer end of a window (R128). -/
theorem mag_eq_zero_iff {j : Nat} (hj : j < 313) (up down : Bool) :
    mag up down j = 0 ↔ (up = true ∧ j ≤ 3) ∨ (down = true ∧ 309 ≤ j) := by
  constructor
  · intro h0
    rcases mag_cases up down j with ⟨hu, hw, h⟩ | ⟨hd, hw, h⟩ | ⟨-, -, h⟩
    · have := sine_window (k := j / 4) (by omega)
      exact .inl ⟨hu, by omega⟩
    · have := sine_window (k := (312 - j) / 4) (by omega)
      exact .inr ⟨hd, by omega⟩
    · omega
  · obtain ⟨zero, -⟩ := sine_corners
    rintro (⟨rfl, h⟩ | ⟨rfl, h⟩)
    · rw [mag_rampUp (by omega), show j / 4 = 0 by omega, zero]
    · rw [mag_rampDown (by omega), show (312 - j) / 4 = 0 by omega, zero]

/-- Settles O14: the numerator by its symmetries and the table of `natAbs_mixAt_bound`, the products by
their factors, which are all within full scale. -/
theorem mixerBounds : Obligations.MixerBounds := by
  intro phase j i hj hi
  obtain ⟨bound, extreme⟩ := natAbs_mixNum_bound hj hi phase
  have hmix := natAbs_mix_le hj hi phase
  refine ⟨?range, ?extremes, ?mix, ?sinCos, ?cosSin, ?scaling⟩
  case range => omega
  case extremes =>
    rw [← extreme]
    omega
  case mix => omega
  case sinCos => exact natAbs_mul_le_of_fullScale (natAbs_carSin_le i) (natAbs_sigCos_le _)
  case cosSin => exact natAbs_mul_le_of_fullScale (natAbs_carCos_le i) (natAbs_sigSin_le _)
  case scaling => exact fun up down => natAbs_mul_le_of_fullScale hmix (natAbs_mag_le up down j)

/-- Settles O15: each window by its own equation, the zeros by `mag_eq_zero_iff`. -/
theorem envelopeWindows : Obligations.EnvelopeWindows := by
  obtain ⟨zero, -⟩ := sine_corners
  refine ⟨fun up => ⟨?last, ?middle⟩, fun j _ => ?noRamp, fun up down j hj =>
    ⟨?rampUp, ?rampDown, mag_outside, mag_eq_zero_iff hj up down⟩⟩
  case last => exact (mag_rampDown (by norm_num) up).trans zero
  case middle => exact mag_outside (.inr (by norm_num)) (.inr (by norm_num))
  case noRamp => exact mag_outside (.inl rfl) (.inl rfl)
  case rampUp =>
    rintro rfl h
    rw [mag_rampUp h]
    exact ⟨rfl, (sine_window (by omega)).2.1⟩
  case rampDown =>
    rintro rfl h
    rw [mag_rampDown h]
    exact ⟨rfl, (sine_window (by omega)).2.1⟩

/-! ### The sample -/

/-- The clamp keeps the sample in a byte (R130). -/
theorem sample_range (phase up down : Bool) (j i : Nat) :
    0 ≤ sample phase up down j i ∧ sample phase up down j i ≤ 255 := by
  simp only [sample, clamp]
  omega

/-- Where the envelope is 0 the sample is the middle of the byte domain (R129, R130). -/
theorem sample_of_mag_eq_zero {up down : Bool} {j : Nat} (h : mag up down j = 0) (phase : Bool)
    (i : Nat) : sample phase up down j i = 127 := by
  rw [sample, unclamped, scaled, h, Int.mul_zero]
  rfl

/-- The byte of a sample holds the sample itself (R133). -/
theorem variantSample_toNat (v : BitVec 3) (j i : Nat) : ((variantSample v j i).toNat : Int)
    = sample (variantPhase v) (variantUp v) (variantDown v) j i := by
  obtain ⟨lower, upper⟩ := sample_range (variantPhase v) (variantUp v) (variantDown v) j i
  rw [variantSample, BitVec.toNat_ofInt]
  omega

/-- Zero-extending the byte of a sample gives the sample on 32 bits (R133). -/
theorem unsignedResult_variantSample (v : BitVec 3) (j i : Nat) : unsignedResult (variantSample v j i)
    = BitVec.ofInt 32 (sample (variantPhase v) (variantUp v) (variantDown v) j i) := by
  rw [← variantSample_toNat, BitVec.ofInt_natCast, unsignedResult, BitVec.ofNat_toNat]

/-- The word at envelope 0 is the shuffled 127 (R134). -/
theorem variantWord_of_mag_eq_zero {v : BitVec 3} {j : Nat}
    (h : mag (variantUp v) (variantDown v) j = 0) (i : Nat) : variantWord v j i = 0x00AF#16 := by
  rw [variantWord, variantSample, sample_of_mag_eq_zero h]
  rfl

/-! ### The operations -/

/-- `DDS` on a pass completes with the sample in every state (R133). -/
theorem exec_dds_of_lt {pj : BitVec 9} (h : pj.toNat < 313) (var : BitVec 3) (si : BitVec 12)
    (s : State) : exec (.dds var pj si) s = .next (s.complete (BitVec.ofInt 32
      (sample (variantPhase var) (variantUp var) (variantDown var) pj.toNat si.toNat))) := by
  rw [exec, execDds, outOfPasses_of_lt h, unsignedResult_variantSample]
  rfl

/-- `DDS` past the last pass takes the `ARG_RANGE` fault in every state (R133). -/
theorem exec_dds_of_le {pj : BitVec 9} (h : 313 ≤ pj.toNat) (var : BitVec 3) (si : BitVec 12)
    (s : State) : exec (.dds var pj si) s = .next (s.raise .argRange) := by
  rw [exec, execDds, if_pos (outOfPasses_of_le h)]

/-- `GEN` on a pass completes with the shuffled word in every state (R134). -/
theorem exec_gen_of_lt {pj : BitVec 9} (h : pj.toNat < 313) (var : BitVec 3) (si : BitVec 12)
    (s : State) : exec (.gen var pj si) s
      = .next (s.complete (unsignedResult (variantWord var pj.toNat si.toNat))) := by
  rw [exec, execGen, outOfPasses_of_lt h]
  rfl

/-- Settles O11: the effect is that of the two ranges of the pass index, the reserved bits are those of
format G, and the number of the word is the encoder's. -/
theorem ddsWritesClampedSample : Obligations.DdsWritesClampedSample := by
  refine ⟨fun v pj si s => ⟨?effect, ?fault⟩, ?reserved, ?bottom, ?unclampedBottom, ?fullScale,
    ?zeroEnvelope, ?lastPass, ?encoding, ?spelling⟩
  case effect => exact fun h => exec_dds_of_lt h v si s
  case fault => exact fun h => exec_dds_of_le h v si s
  case reserved => exact reservedBitsRaise_of_formatOf (f := .G) rfl
  case bottom => rfl
  case unclampedBottom => rfl
  case fullScale => rfl
  case zeroEnvelope =>
    exact sample_of_mag_eq_zero ((mag_eq_zero_iff (by norm_num) _ _).2 (.inl ⟨rfl, by norm_num⟩)) _ _
  case lastPass => rfl
  case encoding => exact fun v pj si => encodeG_eq_ofNat 0xD#4 v pj si ▸ decode_encode_dds v pj si
  case spelling => exact decode_encode_dds 4#3 312#9 4095#12

/-- Settles O12, as O11; the words at envelope 0 are `variantWord_of_mag_eq_zero`. -/
theorem genWritesVariantWord : Obligations.GenWritesVariantWord := by
  refine ⟨fun v pj si s => ⟨?effect, ?fault⟩, ?reserved, ?bottom, ?fullScale, ?zeroEnvelope, ?encoding,
    ?spelling⟩
  case effect => exact fun h => exec_gen_of_lt h v si s
  case fault => exact fun h => exec_gen_of_le h v si s
  case reserved => exact reservedBitsRaise_of_formatOf (f := .G) rfl
  case bottom => rfl
  case fullScale => rfl
  case zeroEnvelope =>
    exact fun i _ => variantWord_of_mag_eq_zero (v := 2#3)
      ((mag_eq_zero_iff (by norm_num) _ _).2 (.inl ⟨rfl, by norm_num⟩)) i
  case encoding => exact fun v pj si => encodeG_eq_ofNat 0xE#4 v pj si ▸ decode_encode_gen v pj si
  case spelling => exact decode_encode_gen 0#3 0#9 12#12

end Sys2Proof.Machine
end

section
/-! The shuffler (42_shuffler.md R150 to R154): the wiring of `shuffle` bit by bit and what follows from it,
the word of format X, the step of `SHUF`, and the settlements of the statements of this section. -/

namespace Sys2Proof

/-- The word of format X as a number. -/
theorem encodeX_eq_ofNat (op : BitVec 4) (xin : BitVec 8) :
    encodeX op xin = BitVec.ofNat 32 (2 ^ 4 * xin.toNat + op.toNat) := by
  apply BitVec.eq_of_toNat_eq
  have hxin := xin.isLt
  have hop := op.isLt
  simp only [encodeX, BitVec.toNat_cast, Machine.toNat_append_add, BitVec.toNat_ofNat]
  omega

/-- `SHUF` is read back from its word, whatever the sample. -/
theorem decode_encode_shuf (xin : BitVec 8) : decode (encode (.shuf xin)) = .ok (.shuf xin) := by
  obtain ⟨hop, hreserved, hxin⟩ := encodeX_fields 0xC#4 xin
  calc decode (encodeX 0xC#4 xin)
      = decodeX (encodeX 0xC#4 xin) .shuf := by rw [decode, hop]; rfl
    _ = .ok (.shuf xin) := by rw [decodeX, ifReservedZero_ok hreserved, hxin]

end Sys2Proof

namespace Sys2Proof.Machine

/-- `SHUF` completes with the zero-extended shuffled sample in every state (R154). -/
theorem exec_shuf (xin : BitVec 8) (s : State) :
    exec (.shuf xin) s = .next (s.complete ((shuffle xin).setWidth 32)) := rfl

/-- Settles O10: the effect is `exec_shuf`, the reserved bits those of format X, and the number of the word
is the encoder's. -/
theorem shufWritesShuffledSample : Obligations.ShufWritesShuffledSample := by
  refine ⟨?effect, ?reserved, rfl, rfl, rfl, rfl, rfl, ?encoding, ?spelling⟩
  case effect => exact exec_shuf
  case reserved => exact reservedBitsRaise_of_formatOf (f := .X) rfl
  case encoding => exact fun x => encodeX_eq_ofNat 0xC#4 x ▸ decode_encode_shuf x
  case spelling => exact decode_encode_shuf 0xFF#8

/-! ### The wiring

Each bit of the word is one bit of the sample or is not connected; the sample's bit 0 is the one that no
bit of the word takes. -/

/-- The bit of the sample that a bit of the shuffled word takes (R151). -/
def shuffleSource : Nat → Option Nat
  | 0 => some 1
  | 1 => some 2
  | 2 => some 3
  | 3 => some 4
  | 5 => some 5
  | 7 => some 6
  | 14 => some 7
  | _ => none

/-- A position outside the seven output lines has no source (R155). -/
theorem shuffleSource_eq_none {k : Nat} (h0 : k ≠ 0) (h1 : k ≠ 1) (h2 : k ≠ 2) (h3 : k ≠ 3)
    (h5 : k ≠ 5) (h7 : k ≠ 7) (h14 : k ≠ 14) : shuffleSource k = none := by
  rw [shuffleSource] <;> assumption

/-- The sample's bits 1 to 7 are the ones that are taken (R151). -/
theorem exists_shuffleSource_iff {b : Nat} : (∃ k, shuffleSource k = some b) ↔ 1 ≤ b ∧ b ≤ 7 := by
  constructor
  · rintro ⟨k, h⟩
    unfold shuffleSource at h
    split at h <;> simp only [Option.some.injEq, reduceCtorEq] at h <;> omega
  · rintro ⟨lower, upper⟩
    have all : ∀ b < 8, 1 ≤ b → ∃ k < 16, shuffleSource k = some b := by decide
    obtain ⟨k, -, h⟩ := all b (by omega) lower
    exact ⟨k, h⟩

/-- A bit of the shuffled word is its source's, and 0 where it has none (R151). -/
theorem getLsbD_shuffle (x : Byte) (k : Nat) :
    (shuffle x).getLsbD k = ((shuffleSource k).map x.getLsbD).getD false := by
  rcases Nat.lt_or_ge k 16 with hk | hk
  · interval_cases k <;> simp [shuffle, shuffleSource]
  · rw [BitVec.getLsbD_of_ge _ _ hk, shuffleSource_eq_none (by omega) (by omega) (by omega) (by omega)
      (by omega) (by omega) (by omega)]
    rfl

/-- A bit of the word that takes bit `b` of the sample (R151). -/
theorem getLsbD_shuffle_of_some {k b : Nat} (h : shuffleSource k = some b) (x : Byte) :
    (shuffle x).getLsbD k = x.getLsbD b := by
  rw [getLsbD_shuffle, h]
  rfl

/-- A bit of the word that is not connected (R151, R153). -/
theorem getLsbD_shuffle_of_none {k : Nat} (h : shuffleSource k = none) (x : Byte) :
    (shuffle x).getLsbD k = false := by
  rw [getLsbD_shuffle, h]
  rfl

/-- The connected bits are those of the shuffled `0xFF`, `0x40AF`: no word sets another one (R152, R153). -/
theorem exists_getLsbD_shuffle_iff {k : Nat} :
    (∃ x, (shuffle x).getLsbD k = true) ↔ (0x40AF#16).getLsbD k = true := by
  constructor
  · rintro ⟨x, h⟩
    cases hk : shuffleSource k with
    | none => simp [getLsbD_shuffle_of_none hk] at h
    | some b =>
      obtain ⟨-, upper⟩ := exists_shuffleSource_iff.1 ⟨k, hk⟩
      have ones : ∀ b < 8, (0xFF#8).getLsbD b = true := by decide
      exact (getLsbD_shuffle_of_some hk 0xFF#8).trans (ones b (by omega))
  · exact fun h => ⟨0xFF#8, h⟩

/-- The bits that are never set (R153). -/
theorem shuffle_and_unconnected (x : Byte) : shuffle x &&& 0xBF50#16 = 0#16 := by
  apply BitVec.eq_of_getLsbD_eq
  intro k hk
  rw [show 0xBF50#16 = ~~~0x40AF#16 from rfl, BitVec.getLsbD_and, BitVec.getLsbD_not]
  cases h : (shuffle x).getLsbD k with
  | false => simp
  | true => simp [exists_getLsbD_shuffle_iff.1 ⟨x, h⟩]

/-- Settles O18: each connected bit by its source, the others by having none; a buffer word is a shuffled
sample. -/
theorem shuffleBitMap : Obligations.ShuffleBitMap := by
  refine ⟨fun x => ?wiring, shuffle_and_unconnected, fun v j i => ⟨?busy, ?new⟩⟩
  case wiring =>
    have wired {k b : Nat} (h : shuffleSource k = some b) := getLsbD_shuffle_of_some h x
    exact ⟨wired rfl, wired rfl, wired rfl, wired rfl, wired rfl, wired rfl, wired rfl,
      fun k h0 h1 h2 h3 h5 h7 h14 =>
        getLsbD_shuffle_of_none (shuffleSource_eq_none h0 h1 h2 h3 h5 h7 h14) x⟩
  case busy => exact getLsbD_shuffle_of_none rfl (variantSample v j i)
  case new => exact getLsbD_shuffle_of_none rfl (variantSample v j i)

/-! ### The image -/

/-- Two samples have the same shuffled word exactly when they agree above bit 0 (R152). -/
theorem shuffle_eq_iff {x x' : Byte} : shuffle x = shuffle x' ↔ x >>> 1 = x' >>> 1 := by
  constructor
  · intro h
    apply BitVec.eq_of_getLsbD_eq
    intro b hb
    rw [BitVec.getLsbD_ushiftRight, BitVec.getLsbD_ushiftRight]
    rcases Nat.lt_or_ge (1 + b) 8 with hb' | hb'
    · obtain ⟨k, hk⟩ := exists_shuffleSource_iff.2 ⟨Nat.le_add_right 1 b, Nat.le_of_lt_succ hb'⟩
      rw [← getLsbD_shuffle_of_some hk, ← getLsbD_shuffle_of_some hk, h]
    · rw [BitVec.getLsbD_of_ge _ _ hb', BitVec.getLsbD_of_ge _ _ hb']
  · intro h
    apply BitVec.eq_of_getLsbD_eq
    intro k _
    cases hk : shuffleSource k with
    | none => rw [getLsbD_shuffle_of_none hk, getLsbD_shuffle_of_none hk]
    | some b =>
      obtain ⟨lower, -⟩ := exists_shuffleSource_iff.1 ⟨k, hk⟩
      have hbit := congrArg (BitVec.getLsbD · (b - 1)) h
      simp only [BitVec.getLsbD_ushiftRight, Nat.add_sub_cancel' lower] at hbit
      rw [getLsbD_shuffle_of_some hk, getLsbD_shuffle_of_some hk, hbit]

/-- The same for the numbers of the samples (R152). -/
theorem shuffle_ofNat_eq_iff {m n : Nat} (hm : m < 256) (hn : n < 256) :
    shuffle (BitVec.ofNat 8 m) = shuffle (BitVec.ofNat 8 n) ↔ m / 2 = n / 2 := by
  rw [shuffle_eq_iff, ← BitVec.toNat_inj, BitVec.toNat_ushiftRight, BitVec.toNat_ushiftRight,
    BitVec.toNat_ofNat, BitVec.toNat_ofNat, Nat.mod_eq_of_lt hm, Nat.mod_eq_of_lt hn,
    Nat.shiftRight_eq_div_pow, Nat.shiftRight_eq_div_pow, pow_one]

/-- The words of the 256 samples, in the order of the samples. -/
def shuffledWords : List Half := (List.range 256).map fun n => shuffle (BitVec.ofNat 8 n)

/-- They are the words of all samples. -/
theorem mem_shuffledWords {w : Half} : w ∈ shuffledWords ↔ ∃ x, shuffle x = w := by
  constructor
  · intro h
    obtain ⟨n, -, hn⟩ := List.mem_map.1 h
    exact ⟨_, hn⟩
  · rintro ⟨x, rfl⟩
    exact List.mem_map.2
      ⟨x.toNat, List.mem_range.2 x.isLt, by rw [BitVec.ofNat_toNat, BitVec.setWidth_eq]⟩

/-- The even samples already give every word (R152). -/
theorem shuffledWords_toFinset : shuffledWords.toFinset
    = (Finset.range 128).image fun n => shuffle (BitVec.ofNat 8 (2 * n)) := by
  ext w
  simp only [shuffledWords, List.mem_toFinset, List.mem_map, List.mem_range, Finset.mem_image,
    Finset.mem_range]
  constructor
  · rintro ⟨n, hn, rfl⟩
    exact ⟨n / 2, by omega, (shuffle_ofNat_eq_iff (by omega) hn).2 (by omega)⟩
  · rintro ⟨n, hn, rfl⟩
    exact ⟨2 * n, by omega, rfl⟩

/-- The image has 128 values: no two even samples have the same word (R152). -/
theorem shuffledWords_dedup_length : shuffledWords.dedup.length = 128 := by
  have injective : Set.InjOn (fun n => shuffle (BitVec.ofNat 8 (2 * n))) (Finset.range 128) := by
    intro m hm n hn h
    simp only [Finset.coe_range, Set.mem_Iio] at hm hn
    have := (shuffle_ofNat_eq_iff (by omega) (by omega)).1 h
    omega
  rw [← List.card_toFinset, shuffledWords_toFinset, Finset.card_image_of_injOn injective,
    Finset.card_range]

/-- A bit of an or of words is set where it is set in one of them or in the word the or starts from. -/
theorem getLsbD_foldl_or {n : Nat} (ws : List (BitVec n)) (k : Nat) (acc : BitVec n) :
    (ws.foldl (· ||| ·) acc).getLsbD k = true
      ↔ acc.getLsbD k = true ∨ ∃ w ∈ ws, w.getLsbD k = true := by
  induction ws generalizing acc with
  | nil => simp
  | cons w ws ih => simp [ih, or_assoc]

/-- The or of all words has the connected bits (R152). -/
theorem shuffledWords_foldl_or : shuffledWords.foldl (· ||| ·) 0#16 = 0x40AF#16 := by
  apply BitVec.eq_of_getLsbD_eq
  intro k _
  rw [Bool.eq_iff_iff, getLsbD_foldl_or, ← exists_getLsbD_shuffle_iff]
  simp [mem_shuffledWords]

/-- Settles O19: the equivalence is read off the wiring, and the list of all words has the number of its
even samples and the or of its connected bits. -/
theorem shuffleInjectiveOnSevenBits : Obligations.ShuffleInjectiveOnSevenBits :=
  ⟨fun _ _ => shuffle_eq_iff, shuffledWords_dedup_length, shuffledWords_foldl_or⟩

end Sys2Proof.Machine
end

section
/-! The scheduler (43_sequencer.md R160 to R166): the numbers of the registers a transition packs or
reduces, the step of `SEQ`, and the settlement of the statement about one transition. -/

namespace Sys2Proof.Machine

/-- The packed variant index as a number (R162 step 6). -/
theorem variantIndex_eq_ofNat (phase up down : Bool) :
    variantIndex phase up down = BitVec.ofNat 3 (4 * phase.toNat + 2 * up.toNat + down.toNat) := by
  apply BitVec.eq_of_toNat_eq
  have hphase := phase.toNat_le
  have hup := up.toNat_le
  have hdown := down.toNat_le
  simp only [variantIndex, toNat_append_add, BitVec.toNat_ofBool, BitVec.toNat_ofNat]
  omega

/-- With a message to index, the new `OFFSET` is the number of step 1 of R162: the sum is not truncated,
and its remainder fits. -/
theorem State.nextOffset_toNat {s : State} (h : 1 ≤ s.msglen.toNat) :
    s.nextOffset.toNat = (s.offset.toNat + 1) % s.msglen.toNat := by
  have hne : s.msglen ≠ 0#16 := fun he => by simp [he] at h
  have hlt : (s.offset.toNat + 1) % s.msglen.toNat < 2 ^ 16 :=
    (Nat.mod_lt _ h).trans s.msglen.isLt
  rw [State.nextOffset, if_neg hne, BitVec.toNat_ofNat, Nat.mod_eq_of_lt hlt]

/-- `PHASE` is toggled where the new `CUR`, the `NEW` before, is 0 (R162 step 4). -/
theorem State.transition_phase_eq (s : State) :
    s.transition.phase = if s.new = false then !s.phase else s.phase := by
  cases h : s.new <;> simp [h]

/-- The variant index after a transition, as a number: it reads the new `PHASE`, `CUR` and `NEW`
(R162 step 6). -/
theorem State.transition_v_eq_ofNat (s : State) :
    s.transition.v = BitVec.ofNat 3 (4 * s.transition.phase.toNat + 2 * (!s.transition.cur).toNat
      + (!s.transition.new).toNat) :=
  variantIndex_eq_ofNat _ _ _

/-- `SEQ` completes in every state: a transition and the two writes of R165, and nothing else. -/
theorem exec_seq (s : State) :
    exec .seq s = .next { s with
      offset := s.nextOffset, old := s.cur, cur := s.new, new := s.msgBit s.nextOffset
      phase := s.transition.phase, v := s.transition.v
      j := 0#9, pc := s.pc + 1#8, waiting := false } := rfl

/-- Settles O20: the step is `exec_seq`; the new `OFFSET`, `PHASE` and `V` are the rule's numbers. -/
theorem seqMakesOneTransition : Obligations.SeqMakesOneTransition := by
  intro s hlen
  refine ⟨s.nextOffset, State.nextOffset_toNat hlen, ?step⟩
  rw [exec_seq, State.transition_v_eq_ofNat, State.transition_phase_eq, State.transition_cur,
    State.transition_new]

end Sys2Proof.Machine
end

section
/-! The two polls of the buffer exchange (44_exchange.md R182, R185, R196): the three outcomes of a poll, what
`WAITF` and `WAITA` poll, and the settlement of the statement about them. -/

namespace Sys2Proof.Machine

/-! ### The three outcomes -/

/-- A busy poll whose count reaches a nonzero limit faults, with `WCNT` as it was (R182, R254). -/
theorem State.poll_true_of_limit_le {s : State} (hset : s.waitlim ≠ 0#32)
    (hle : s.waitlim.toNat ≤ nextCount s.wcnt) : s.poll true = s.raise .peerUnresponsive := by
  rw [State.poll, if_pos rfl, if_pos ⟨hset, hle⟩]

/-- A busy poll with no limit, or with a count still below it, counts and stays (R181, R182). -/
theorem State.poll_true_of_lt_limit {s : State}
    (h : s.waitlim = 0#32 ∨ nextCount s.wcnt < s.waitlim.toNat) :
    s.poll true = { s with wcnt := BitVec.ofNat 32 (nextCount s.wcnt), waiting := true } := by
  have hbelow : ¬ (s.waitlim ≠ 0#32 ∧ s.waitlim.toNat ≤ nextCount s.wcnt) := by
    rintro ⟨hset, hle⟩
    rcases h with hnone | hlt
    · exact hset hnone
    · exact Nat.not_le_of_lt hlt hle
  rw [State.poll, if_pos rfl, if_neg hbelow]

/-- A poll that is not busy clears the count and completes (R182). -/
theorem State.poll_false (s : State) :
    s.poll false = { s with wcnt := 0#32, waiting := false, pc := s.pc + 1#8 } := rfl

/-! ### The two polls -/

/-- `WAITF` polls bit 8 of the flag word it loads, unless a pending store covers half of that word (R185). -/
theorem exec_waitf {s : State} (h : ∀ e ∈ s.sb, e.partlyCovers s.base = false) :
    exec .waitf s = .next (s.poll ((s.loadHalf s.base).getLsbD 8)) := by
  rcases execWaitf_cases s with ⟨⟨e, he, hpart⟩, -⟩ | ⟨-, hpoll⟩
  · exact absurd hpart (by simp [h e he])
  · exact hpoll

/-- `WAITA` polls whether the command it loads is not 0 (R196). -/
theorem exec_waita (s : State) : exec .waita s = .next (s.poll (s.loadCmd != 0#32)) := by
  obtain ⟨hbusy, hfree⟩ := execWaita_eq s
  by_cases h : s.loadCmd = 0#32
  · rw [bne_eq_false_iff_eq.2 h]
    exact hfree h
  · rw [bne_iff_ne.2 h]
    exact hbusy h

/-- Settles O22: either operation is a poll of its own condition, and a poll has the three outcomes of R182. -/
theorem pollOutcome : Obligations.PollOutcome := by
  intro s i busy hi
  have hexec : exec i s = .next (s.poll busy) := by
    rcases hi with ⟨rfl, hoverlap, rfl⟩ | ⟨rfl, rfl⟩
    · exact exec_waitf hoverlap
    · exact exec_waita s
  rw [hexec]
  refine ⟨?fault, ?stay, ?complete⟩
  case fault =>
    rintro rfl hset hle
    rw [State.poll_true_of_limit_le hset hle, State.raise_eq_faulted, Cause.code]
  case stay =>
    rintro rfl hbelow
    rw [State.poll_true_of_lt_limit hbelow, nextCount]
  case complete =>
    rintro rfl
    rw [State.poll_false]

end Sys2Proof.Machine
end

section
/-! The unconditional jump (45_control.md R231): the word of format T, the step of `JMP`, and the settlement
of the statement about it. -/

namespace Sys2Proof

/-- The word of format T as a number; its layout is that of format X. -/
theorem encodeT_eq_ofNat (op : BitVec 4) (tgt : BitVec 8) :
    encodeT op tgt = BitVec.ofNat 32 (2 ^ 4 * tgt.toNat + op.toNat) := encodeX_eq_ofNat op tgt

/-- An encoded word of format T gives back its target. -/
theorem decodeT_encodeT (op : BitVec 4) (tgt : BitVec 8) (mk : BitVec 8 → Instr) :
    decodeT (encodeT op tgt) mk = .ok (mk tgt) := by
  obtain ⟨-, hreserved, htgt⟩ := encodeT_fields op tgt
  rw [decodeT, ifReservedZero_ok hreserved, htgt]

/-- `JMP` is read back from its word, whatever the target. -/
theorem decode_encode_jmp (tgt : BitVec 8) : decode (encode (.jmp tgt)) = .ok (.jmp tgt) := by
  obtain ⟨hop, -⟩ := encodeT_fields 0xA#4 tgt
  calc decode (encodeT 0xA#4 tgt)
      = decodeT (encodeT 0xA#4 tgt) .jmp := by rw [decode, hop]; rfl
    _ = .ok (.jmp tgt) := decodeT_encodeT 0xA#4 tgt .jmp

end Sys2Proof

namespace Sys2Proof.Machine

/-- `JMP` completes at its target in every state (R231). -/
theorem exec_jmp (tgt : BitVec 8) (s : State) : exec (.jmp tgt) s = .next (s.jumpTo tgt) := rfl

/-- A jump to the state's own index keeps everything but `WAITING` (R231). -/
theorem State.jumpTo_self (s : State) : s.jumpTo s.pc = { s with waiting := false } := rfl

/-- Settles O31: the effect is `exec_jmp`, which at the state's own index leaves `pc` in place; the reserved
bits are those of format T, and the number of the word is the encoder's. -/
theorem jmpSetsTheIndex : Obligations.JmpSetsTheIndex := by
  refine ⟨?effect, ?reserved, ?selfJump, ?encoding, ?spelling⟩
  case effect => exact exec_jmp
  case reserved => exact reservedBitsRaise_of_formatOf (f := .T) rfl
  case selfJump => exact fun s => (exec_jmp s.pc s).trans (congrArg Host.Outcome.next s.jumpTo_self)
  case encoding => exact fun tgt => encodeT_eq_ofNat 0xA#4 tgt ▸ decode_encode_jmp tgt
  case spelling => exact decode_encode_jmp 0#8

end Sys2Proof.Machine
end

section
/-! The exceptions (60_exceptions.md R251, R258): what a word outside the table of formats does to a running
producer, what a host start does, and the settlements of the statements about `ILLEGAL_OP` and `INIT`. -/

namespace Sys2Proof

/-- The decoder rejects every word that the table of formats does not call legal (30_encoding.md R97,
R100). -/
theorem decode_error_of_not_wellFormed {w : Word} (h : wellFormedWord w = false) :
    ∃ e, decode w = .error e := by
  have ha := decode_answer w
  generalize decode w = r at ha ⊢
  cases ha with
  | opcodeZero => exact ⟨_, rfl⟩
  | reservedBitSet => exact ⟨_, rfl⟩
  | legal hf hr => exact absurd (Laws.wellFormedWord_of hf hr) (Bool.eq_false_iff.1 h)

end Sys2Proof

namespace Sys2Proof.Machine

/-! ### An illegal word -/

/-- A running producer that fetches a word outside the table of formats raises `ILLEGAL_OP` (R251). -/
theorem producerTurn_of_not_wellFormed {s : State} (hrunning : s.halted = false)
    (hword : wellFormedWord s.fetch = false) : producerTurn s = .next (s.raise .illegalOp) := by
  obtain ⟨_, hdecode⟩ := decode_error_of_not_wellFormed hword
  exact producerTurn_error hrunning hdecode

/-- Settles O7: the turn is the producer's and its step the fault entry, whose fields are those of
`State.raise`; the word of zeros has opcode 0, which no format has. -/
theorem illegalWordRaisesIllegalOp : Obligations.IllegalWordRaisesIllegalOp := by
  refine ⟨fun s ts hturn hrunning hword => ?raises, ?zero⟩
  case raises =>
    exact (step_producer hturn).trans
      (producerTurn_of_not_wellFormed (s := { s with turns := ts }) hrunning hword)
  case zero => rfl

/-! ### The host start -/

/-- A host write of `CTRL` with bit 0 set, to a halted block with no fault, is a start (10_state.md R41). -/
theorem State.portWrite_ctrl_start {s : State} {w : Word} (hbit : w.getLsbD 0 = true)
    (hhalted : s.halted = true) (hfault : s.fault = false) : s.portWrite .ctrl w = s.start :=
  if_pos ⟨hbit, hhalted, by simp [hfault]⟩

/-- A step in an explicit turn in which the host writes `CTRL`, which stands at offset 0 (10_state.md R40). -/
theorem step_hostWrite_ctrl {s : State} {w : Word} {ts : List Turn}
    (h : s.turns = .hostWrite 0 4 w :: ts) :
    step s = .next ({ s with turns := ts }.portWrite .ctrl w) := step_turn h

/-- A start with a configuration that passes the check releases the producer (R258). -/
theorem State.start_of_startOk {s : State} (h : s.startOk = true) :
    s.start = { s with halted := false } := if_pos h

/-- A start with a configuration that fails the check takes the `INIT` fault (R258). -/
theorem State.start_of_not_startOk {s : State} (h : ¬ s.startOk = true) :
    s.start = s.raise .init := if_neg h

/-- Settles O44: the write is a start, and the two clauses are the two answers of the start check. -/
theorem startChecksTheConfiguration : Obligations.StartChecksTheConfiguration := by
  intro s w ts hturn hbit hhalted hfault
  have hstart : step s = .next { s with turns := ts }.start :=
    (step_hostWrite_ctrl hturn).trans
      (congrArg _ (State.portWrite_ctrl_start (s := { s with turns := ts }) hbit hhalted hfault))
  have hcheck := State.startOk_iff { s with turns := ts }
  refine ⟨fun hpass => ?pass, fun hfail => ?fail⟩
  case pass => exact hstart.trans (congrArg _ (State.start_of_startOk (hcheck.2 hpass)))
  case fail => exact hstart.trans (congrArg _ (State.start_of_not_startOk (mt hcheck.1 hfail)))

end Sys2Proof.Machine
end

section
/-! The decoder and the encoder together (30_encoding.md R91 to R97): every operation is read back from its
word, a word decodes exactly when the table of formats calls it legal, and the two settlements. -/

namespace Sys2Proof

/-- `LOOPJ` is read back from its word, whatever the target. -/
theorem decode_encode_loopj (tgt : BitVec 8) : decode (encode (.loopj tgt)) = .ok (.loopj tgt) := by
  obtain ⟨hop, -⟩ := encodeT_fields 0x9#4 tgt
  calc decode (encodeT 0x9#4 tgt)
      = decodeT (encodeT 0x9#4 tgt) .loopj := by rw [decode, hop]; rfl
    _ = .ok (.loopj tgt) := decodeT_encodeT 0x9#4 tgt .loopj

/-- Every operation is read back from its word. One of format N has one word only, which evaluates. -/
theorem decode_encode (i : Instr) : decode (encode i) = .ok i := by
  cases i with
  | seq | waitf | fillf | postf | filla | waita | posta | fence | halt => rfl
  | loopj tgt => exact decode_encode_loopj tgt
  | jmp tgt => exact decode_encode_jmp tgt
  | lut idx => exact decode_encode_lut idx
  | shuf xin => exact decode_encode_shuf xin
  | dds var pj si => exact decode_encode_dds var pj si
  | gen var pj si => exact decode_encode_gen var pj si

/-- Settles O1: the formats with operands each by its own fields. -/
theorem decodeEncodeRoundTrip : Obligations.DecodeEncodeRoundTrip := decode_encode

/-- Everything the decoder answers to a word that the table of formats calls legal. -/
theorem decode_ok_of_wellFormed {w : Word} (h : wellFormedWord w = true) : ∃ i, decode w = .ok i := by
  have ha := decode_answer w
  generalize decode w = r at ha ⊢
  cases ha with
  | opcodeZero hf =>
    rw [opField] at hf
    simp [wellFormedWord, hf] at h
  | reservedBitSet hf hr =>
    rw [opField] at hf
    simp [wellFormedWord, hf, hr] at h
  | legal => exact ⟨_, rfl⟩

/-- Settles O3: the decoder answers an operation to a legal word and an error to any other, and never
both. -/
theorem decodeAcceptsExactlyLegalWords : Obligations.DecodeAcceptsExactlyLegalWords := by
  intro w
  cases h : wellFormedWord w with
  | true =>
    obtain ⟨i, hi⟩ := decode_ok_of_wellFormed h
    simp [hi]
  | false =>
    obtain ⟨e, he⟩ := decode_error_of_not_wellFormed h
    simp [he]

end Sys2Proof
end

section
/-! The sample of the modulator (41_modulator.md R122 to R132): the range of the scaled value and of the
sample before the clamp, what a word depends on, and the two settlements. -/

namespace Sys2Proof.Machine

/-- The scaled value is within full scale (R129). -/
theorem natAbs_scaled_le {j i : Nat} (hj : j < 313) (hi : i < 4096) (phase up down : Bool) :
    (scaled phase up down j i).natAbs ≤ 1024 := by
  have hmix := natAbs_mix_le hj hi phase
  have hmag := natAbs_mag_le up down j
  rw [scaled, Int.natAbs_tdiv, Int.natAbs_mul]
  calc _ ≤ 1024 * 1024 / 1024 := Nat.div_le_div_right (Nat.mul_le_mul hmix hmag)
    _ = 1024 := by norm_num

/-- Dividing a value within full scale by 8 toward zero gives the least quotient only at its lower end
(R130). -/
theorem tdiv_eight_bounds {x : Int} (h : x.natAbs ≤ 1024) :
    -128 ≤ x.tdiv 8 ∧ x.tdiv 8 ≤ 128 ∧ (x.tdiv 8 = -128 ↔ x = -1024) := by
  have sign : Int.sign 8 = 1 := rfl
  rw [Int.tdiv_eq_ediv, sign]
  split_ifs <;> omega

/-- Settles O16: the quotient of the scaled value is in [-128, 128], so the sample before the clamp leaves
the byte domain only below it. -/
theorem clampActsOnlyAtTheBottom : Obligations.ClampActsOnlyAtTheBottom := by
  intro phase up down j i hj hi
  obtain ⟨lower, upper, bottom⟩ := tdiv_eight_bounds (natAbs_scaled_le hj hi phase up down)
  rw [sample, clamp, unclamped]
  split_ifs <;> omega

/-- Within a pass the baseband index does not depend on the sample (R122). -/
theorem sigIdx_eq_of_lt {i : Nat} (hi : i < 4096) (phase : Bool) (j : Nat) :
    sigIdx phase j i = j / 16 + 64 * phase.toNat := by
  rw [sigIdx]
  omega

/-- The numerator repeats with the carrier period (R124). -/
theorem mixAt_mod (s i : Nat) : mixAt s (i % 16) = mixAt s i :=
  (mixAt_antiperiodic s).periodic.map_mod_nat i

/-- The mixer's output depends on the sample through the carrier phase and on the pass through its sixteen
(R122, R124). -/
theorem mix_congr {j j' i i' : Nat} (hi : i < 4096) (hi' : i' < 4096) (hmod : i % 16 = i' % 16)
    (hdiv : j / 16 = j' / 16) (phase : Bool) : mix phase j i = mix phase j' i' := by
  rw [mix, mix, mixNum_eq_mixAt, mixNum_eq_mixAt, sigIdx_eq_of_lt hi, sigIdx_eq_of_lt hi', hdiv,
    ← mixAt_mod _ i, ← mixAt_mod _ i', hmod]

/-- Settles O17: the scaled value is that of the mixer's output and the envelope, and the word is the scaled
value's. -/
theorem wordsRepeatWithTheCarrier : Obligations.WordsRepeatWithTheCarrier := by
  intro v j j' i i' hi hi' hmod hdiv hmag
  have hmag : mag (variantUp v) (variantDown v) j = mag (variantUp v) (variantDown v) j' := hmag
  have hscaled : scaled (variantPhase v) (variantUp v) (variantDown v) j i
      = scaled (variantPhase v) (variantUp v) (variantDown v) j' i' := by
    rw [scaled, scaled, mix_congr hi hi' hmod hdiv, hmag]
  rw [variantWord, variantWord, variantSample, variantSample, sample, sample, unclamped, unclamped, hscaled]

end Sys2Proof.Machine
end

section
/-! Everything an operation that answers a next state can do, as one relation with a named case per effect,
and the three settlements about what every operation leaves alone: which registers it writes, that its stores
enter the store buffer only, and that its faults do nothing else. -/

namespace Sys2Proof.Machine

/-- An operation finds its pass index out of range (60_exceptions.md R252). -/
def PassOutOfRange (i : Instr) (s : State) : Prop :=
  (i = .fillf ∨ i = .postf ∨ i = .filla ∨ ∃ tgt, i = .loopj tgt) ∧ 313 ≤ s.j.toNat
  ∨ ∃ v pj si, (i = .dds v pj si ∨ i = .gen v pj si) ∧ 313 ≤ pj.toNat

/-- The two polls (44_exchange.md R182). -/
def IsPoll (i : Instr) : Prop := i = .waitf ∨ i = .waita

/-- The four operations that write `RES` (10_state.md R26). -/
def IsDatapath (i : Instr) : Prop :=
  (∃ x, i = .lut x) ∨ (∃ x, i = .shuf x) ∨ (∃ v p k, i = .dds v p k) ∨ ∃ v p k, i = .gen v p k

/-- The next states of an operation `i` in the state `s`. -/
inductive ExecEffect (s : State) : Instr → State → Prop where
  /-- 60_exceptions.md R252. -/
  | argRange {i} (hpass : PassOutOfRange i s) : ExecEffect s i (s.raise .argRange)
  /-- 44_exchange.md R182: a poll that reaches its limit. -/
  | unresponsive {i} (hpoll : IsPoll i) (hset : s.waitlim ≠ 0#32) :
      ExecEffect s i (s.raise .peerUnresponsive)
  /-- R182: a poll that stays. -/
  | stay {i} (hpoll : IsPoll i) :
      ExecEffect s i { s with wcnt := BitVec.ofNat 32 (nextCount s.wcnt), waiting := true }
  /-- R182: a poll that completes. -/
  | ready {i} (hpoll : IsPoll i) : ExecEffect s i ({ s with wcnt := 0#32 }).advance
  /-- 43_sequencer.md R165. -/
  | seq : ExecEffect s .seq ({ s.transition with j := 0#9 }).advance
  /-- 44_exchange.md R186. -/
  | fillf : ExecEffect s .fillf (s.enqueue (blockStores s.base.toNat s.v s.j.toNat)).advance
  /-- R195. -/
  | filla : ExecEffect s .filla (s.enqueue (blockStores (s.slotAddr s.slot) s.v s.j.toNat)).advance
  /-- R187. -/
  | postf : ExecEffect s .postf
      (s.enqueue [.data s.base (postedWord (variantWord s.v s.j.toNat 0))]).advance
  /-- R197. -/
  | posta : ExecEffect s .posta
      (({ s with fc := s.fc + 1#32 }).enqueue [.cmd (address (s.slotAddr s.slot))]).advance
  /-- 20_memory.md R76: a `FENCE` that holds. -/
  | hold : ExecEffect s .fence s
  /-- 44_exchange.md R206. -/
  | fence : ExecEffect s .fence s.advance
  /-- 45_control.md R230. -/
  | loopj {tgt p} (hpass : s.j.toNat < 313) :
      ExecEffect s (.loopj tgt) { s with j := s.j + 1#9, pc := p, waiting := false }
  /-- R231. -/
  | jmp {tgt} : ExecEffect s (.jmp tgt) (s.jumpTo tgt)
  /-- 10_state.md R26. -/
  | result {i r} (hdata : IsDatapath i) : ExecEffect s i (s.complete r)
  /-- 45_control.md R232. -/
  | halt : ExecEffect s .halt ({ s with halted := true }).advance

/-- The next states of a poll. -/
theorem poll_effect {s : State} {i : Instr} (hpoll : IsPoll i) (busy : Bool) :
    ExecEffect s i (s.poll busy) := by
  rcases s.poll_cases busy with ⟨-, hset, -, e⟩ | ⟨-, -, e⟩ | ⟨-, e⟩ <;> rw [e]
  · exact .unresponsive hpoll hset
  · exact .stay hpoll
  · exact .ready hpoll

/-- An operation that answers a next state has one of the effects. -/
theorem exec_effect {i : Instr} {s t : State} (h : exec i s = .next t) : ExecEffect s i t := by
  rcases exec_next h with ⟨rfl, hpass⟩ | ⟨rfl, rfl⟩ | ⟨rfl, rfl⟩ | ⟨rfl, rfl⟩ | ⟨rfl, -, -, rfl⟩
    | ⟨rfl, -, -, rfl⟩ | ⟨rfl, -, -, rfl⟩ | ⟨rfl, rfl⟩ | ⟨rfl, rfl | ⟨-, rfl⟩⟩ | ⟨tgt, p, rfl, hpass, rfl⟩
    | ⟨tgt, rfl, rfl⟩ | ⟨hdata, r, rfl⟩ | ⟨rfl, rfl⟩
  · exact .argRange hpass
  · exact .seq
  · exact poll_effect (.inl rfl) _
  · exact poll_effect (.inr rfl) _
  · exact .fillf
  · exact .filla
  · exact .postf
  · exact .posta
  · exact .hold
  · exact .fence
  · exact .loopj hpass
  · exact .jmp
  · exact .result (s := s) (r := r) hdata
  · exact .halt

/-- Shared memory reads the same where the data space and the command register are the same. -/
theorem State.sameShared_of_eq {s t : State} (hmem : t.mem = s.mem) (hcmd : t.cmdReg = s.cmdReg) :
    s.sameShared t := ⟨State.byteAt_congr hmem, hcmd⟩

/-- No operation writes the data space or the command register (20_memory.md R69). -/
theorem exec_shared {i : Instr} {s t : State} (h : exec i s = .next t) :
    t.mem = s.mem ∧ t.cmdReg = s.cmdReg := by
  cases exec_effect h <;> exact ⟨rfl, rfl⟩

/-- The stores of an operation enter the young end of the store buffer, and only four operations have any
(20_memory.md R72). -/
theorem exec_sb {i : Instr} {s t : State} (h : exec i s = .next t) :
    ∃ es, t.sb = s.sb ++ es ∧ (i ≠ .fillf → i ≠ .filla → i ≠ .postf → i ≠ .posta → es = []) := by
  cases exec_effect h
  case fillf => exact ⟨_, rfl, fun hne => absurd rfl hne⟩
  case filla => exact ⟨_, rfl, fun _ hne => absurd rfl hne⟩
  case postf => exact ⟨_, rfl, fun _ _ hne => absurd rfl hne⟩
  case posta => exact ⟨_, rfl, fun _ _ _ hne => absurd rfl hne⟩
  all_goals exact ⟨[], (List.append_nil _).symm, fun _ _ _ _ => rfl⟩

/-- Settles O36: by the two lemmas on shared memory and on the store buffer. -/
theorem producerStoresEnterTheBufferOnly : Obligations.ProducerStoresEnterTheBufferOnly := by
  intro i s t h
  obtain ⟨hmem, hcmd⟩ := exec_shared h
  exact ⟨State.byteAt_congr hmem, hcmd, exec_sb h⟩

/-- The configuration is the same after every operation (10_state.md R46 (3)). -/
theorem exec_sameConfig {i : Instr} {s t : State} (h : exec i s = .next t) : s.sameConfig t := by
  cases exec_effect h <;> exact ⟨rfl, rfl, rfl, rfl, rfl⟩

/-- A pass count below the last keeps `J` in its range (10_state.md R25). -/
theorem pass_succ_le {j : BitVec 9} (h : j.toNat < 313) : (j + 1#9).toNat ≤ 313 := by
  rw [BitVec.toNat_add, BitVec.toNat_ofNat]
  omega

/-- Settles O37: effect by effect; a register that no effect of an operation names is unchanged by
definition. -/
theorem eachRegisterHasItsWriters : Obligations.EachRegisterHasItsWriters := by
  intro i s t h
  have hconfig := exec_sameConfig h
  refine ⟨?scheduler, ?pass, ?range, ?result, ?frameCount, ?pollCount, ?halted, ?exceptions, hconfig, ?rest⟩
  case scheduler =>
    cases exec_effect h
    case seq => exact fun hne => absurd rfl hne
    all_goals exact fun _ => ⟨rfl, rfl, rfl, rfl, rfl, rfl⟩
  case pass =>
    cases exec_effect h
    case seq => exact fun hne => absurd rfl hne
    case loopj => exact fun _ hne => absurd rfl (hne _)
    all_goals exact fun _ _ => rfl
  case range =>
    cases exec_effect h
    case seq => exact fun _ => Nat.zero_le _
    case loopj hpass => exact fun _ => pass_succ_le hpass
    all_goals exact fun hne => absurd rfl hne
  case result =>
    cases exec_effect h
    case result hdata =>
      rcases hdata with ⟨_, rfl⟩ | ⟨_, rfl⟩ | ⟨_, _, _, rfl⟩ | ⟨_, _, _, rfl⟩ <;> simp
    all_goals exact fun _ _ _ _ => rfl
  case frameCount =>
    cases exec_effect h
    case posta => exact fun hne => absurd rfl hne
    all_goals exact fun _ => rfl
  case pollCount =>
    cases exec_effect h
    case stay hpoll => rcases hpoll with rfl | rfl <;> simp
    case ready hpoll => rcases hpoll with rfl | rfl <;> simp
    all_goals exact fun _ _ => rfl
  case halted =>
    cases exec_effect h
    case argRange => exact fun _ hf => nomatch hf
    case unresponsive => exact fun _ hf => nomatch hf
    case halt => exact fun hne => absurd rfl hne
    all_goals exact fun _ _ => rfl
  case exceptions =>
    cases exec_effect h
    case argRange => exact .inl rfl
    case unresponsive => exact .inr (.inl rfl)
    all_goals exact .inr (.inr ⟨rfl, rfl, rfl⟩)
  case rest => cases exec_effect h <;> exact ⟨rfl, rfl, rfl, rfl, rfl, rfl, rfl, rfl⟩

/-- Settles O38: the two effects that set `FAULT` are fault entries, with their conditions. -/
theorem operationFaultsArePrecise : Obligations.OperationFaultsArePrecise := by
  intro i s t hnone h hfault
  cases exec_effect h
  case argRange hpass => exact .inl ⟨rfl, hpass⟩
  case unresponsive hset hpoll => exact .inr ⟨rfl, hpoll, hset⟩
  all_goals exact absurd hfault (by simp [hnone])

end Sys2Proof.Machine
end

section
/-! The invariant of Safety.lean: one lemma per shared operation that says the operation keeps it, from these
one per agent's turn, and the settlements of the three statements about it. -/

namespace Sys2Proof.Machine

/-! ### Pending stores -/

/-- A sample word carries no bit outside the sample bits (42_shuffler.md R153). -/
theorem variantWord_and_unissued (v : BitVec 3) (j i : Nat) : variantWord v j i &&& 0x3E50#16 = 0#16 := by
  have h := shuffle_and_unconnected (variantSample v j i)
  rw [variantWord, show 0x3E50#16 = 0xBF50#16 &&& 0x3E50#16 from rfl, ← BitVec.and_assoc, h, BitVec.zero_and]

/-- The two flag bits are among the bits a store may carry (44_exchange.md R187). -/
theorem postedWord_and_unissued (w : Half) : postedWord w &&& 0x3E50#16 = w &&& 0x3E50#16 := by
  rw [postedWord, BitVec.and_or_distrib_right, show Config.flagBits &&& 0x3E50#16 = 0#16 from rfl,
    BitVec.or_zero]

/-- An even integer address is an even 32-bit one. -/
theorem address_even {a : Nat} (h : a % 2 = 0) : (address a).toNat % 2 = 0 := by
  rw [address, BitVec.toNat_ofNat]
  omega

/-- A data store at an even address, with sample and flag bits only, is one the producer issues. -/
theorem issued_data {a : Word} {h : Half} (ha : a.toNat % 2 = 0) (hh : h &&& 0x3E50#16 = 0#16) :
    (PendingStore.data a h).issued = true := by
  simp [PendingStore.issued, ha, hh]

/-- The stores of a block at an even address are stores the producer issues (20_memory.md R62). -/
theorem issued_of_mem_blockStores {a : Nat} (ha : a % 2 = 0) (v : BitVec 3) (j : Nat) :
    ∀ e ∈ blockStores a v j, e.issued = true := by
  intro e he
  obtain ⟨k, -, rfl⟩ := List.mem_map.1 he
  exact issued_data (address_even (by omega)) (variantWord_and_unissued v j k)

/-- Under the start check the slot addresses are the integers themselves, nonzero and aligned (20_memory.md
R67, R68). -/
theorem State.slotAddr_bounds {s : State} (h : s.startOk = true) :
    s.slotAddr s.slot + 8192 ≤ 2 ^ 32 ∧ s.slotAddr s.slot ≠ 0 ∧ s.slotAddr s.slot % 4 = 0
      ∧ s.base.toNat ≤ s.slotAddr s.slot ∧ s.slotAddr s.slot + 8192 ≤ s.base.toNat + 32768 := by
  obtain ⟨-, hne, haligned, hfits⟩ := s.startOk_iff.1 h
  have hslot : s.slotAddr s.slot = s.base.toNat + 8192 * (s.fc.toNat % 4) := rfl
  omega

/-- The 32-bit address of a slot under the start check is the integer itself, and not 0 (R67). -/
theorem State.address_slotAddr {s : State} (h : s.startOk = true) :
    (address (s.slotAddr s.slot)).toNat = s.slotAddr s.slot ∧ address (s.slotAddr s.slot) ≠ 0#32 := by
  obtain ⟨hfits, hne, -⟩ := s.slotAddr_bounds h
  have hnum : (address (s.slotAddr s.slot)).toNat = s.slotAddr s.slot := Nat.mod_eq_of_lt (by omega)
  exact ⟨hnum, fun h0 => hne (by rw [← hnum, h0]; rfl)⟩

/-- A handoff of a slot under the start check is a store the producer issues. -/
theorem State.issued_handoff {s : State} (h : s.startOk = true) :
    (PendingStore.cmd (address (s.slotAddr s.slot))).issued = true := by
  obtain ⟨-, -, haligned, -⟩ := s.slotAddr_bounds h
  obtain ⟨hnum, hne⟩ := s.address_slotAddr h
  simp [PendingStore.issued, hne, hnum, haligned]

/-- The codes of the causes are 1 to 4 (60_exceptions.md R250). -/
theorem Cause.code_bounds (c : Cause) : 1 ≤ c.code.toNat ∧ c.code.toNat ≤ 4 := by
  cases c <;> decide

/-- The bits of a packed variant index (30_encoding.md R93). -/
theorem getLsbD_variantIndex (phase up down : Bool) :
    (variantIndex phase up down).getLsbD 2 = phase ∧ (variantIndex phase up down).getLsbD 1 = up
      ∧ (variantIndex phase up down).getLsbD 0 = down := by
  revert phase up down
  decide

/-- A counted poll leaves a count that is not 0 (10_state.md R28). -/
theorem ofNat_nextCount_ne_zero (n : Word) : BitVec.ofNat 32 (nextCount n) ≠ 0#32 := by
  intro h
  have hbounds := nextCount_bounds n
  have hnum := nextCount_toNat n
  rw [h, BitVec.toNat_ofNat] at hnum
  omega

/-! ### What the shared operations keep -/

/-- Settles O58: reset halts the producer, clears its registers and leaves nothing pending or read. -/
theorem resetStateMeetsInvariant : Obligations.ResetStateMeetsInvariant where
  memory := State.reset_mem_wf
  pass := Nat.zero_le _
  variant := by decide
  running := nofun
  stopped := nofun
  recorded := ⟨rfl, rfl⟩
  polling := nofun
  pending := nofun
  reading := rfl
  output := nofun

namespace State.Inv
variable {s t : State}

theorem advance (h : s.Inv) : s.advance.Inv := { h with polling := nofun }

theorem jumpTo (h : s.Inv) (tgt : BitVec 8) : (s.jumpTo tgt).Inv := { h with polling := nofun }

theorem complete (h : s.Inv) (r : Word) : (s.complete r).Inv := { h with polling := nofun }

theorem raise (h : s.Inv) (c : Cause) : (s.raise c).Inv :=
  { h with
    running := nofun
    stopped := fun _ => rfl
    recorded := c.code_bounds
    polling := nofun }

theorem enqueue (h : s.Inv) {es : List PendingStore} (hes : ∀ e ∈ es, e.issued = true) :
    (s.enqueue es).Inv :=
  { h with pending := fun e he => (List.mem_append.1 he).elim (h.pending e) (hes e) }

theorem stay (h : s.Inv) (hrunning : s.halted = false) :
    ({ s with wcnt := BitVec.ofNat 32 (nextCount s.wcnt), waiting := true } : State).Inv :=
  { h with polling := fun _ => ⟨hrunning, ofNat_nextCount_ne_zero s.wcnt⟩ }

theorem transition (h : s.Inv) : s.transition.Inv :=
  { h with variant := (getLsbD_variantIndex _ _ _).1 }

theorem perform (h : s.Inv) (e : PendingStore) : (s.perform e).Inv := by
  cases e with
  | data a v => exact { h with memory := Memory.wf_writeHalf a v h.memory }
  | cmd w => exact { h with }

theorem drain (h : s.Inv) (k : Nat) : (s.drain k).Inv := by
  rcases s.drain_cases k with ⟨-, e⟩ | ⟨o, -, -, e⟩ <;> rw [e]
  · exact h
  · exact { h.perform o with pending := fun x hx => h.pending x (List.mem_of_mem_eraseIdx hx) }

theorem beginBlock (h : s.Inv) (a : Word) : (s.beginBlock a).Inv :=
  { h with reading := by simp [State.consumerOk] }

theorem emitBlock (h : s.Inv) {a : Word} (hdone : s.consumer = .reading a 4096) : s.emitBlock.Inv := by
  have hread := h.reading
  simp only [State.consumerOk, hdone, Bool.and_eq_true, decide_eq_true_eq] at hread
  exact { h with
    reading := rfl
    output := fun b hb => (List.mem_append.1 hb).elim (h.output b) fun hb =>
      List.mem_singleton.1 hb ▸ hread.2 }

theorem consumerRead (h : s.Inv) {a : Word} {k : Nat} (hreading : s.consumer = .reading a k)
    (hk : k < 4096) : (s.consumerRead a k).Inv := by
  have hread := h.reading
  simp only [State.consumerOk, hreading, Bool.and_eq_true, decide_eq_true_eq] at hread
  exact { h with
    reading := by
      simp [State.consumerOk, Config.passLen, hread.2]
      omega }

theorem consumerStep (h : s.Inv) (b : Bool) : (s.consumerStep b).Inv := by
  rcases s.consumerStep_cases b with
    e | ⟨-, -, e⟩ | ⟨-, -, -, e⟩ | ⟨a, k, hc, hk, e⟩ | ⟨hc, -, e⟩ | ⟨a, hc, -, e⟩ <;> rw [e]
  · exact h
  · exact h.beginBlock _
  · have hcleared : { s with cmdReg := 0#32 }.Inv := { h with }
    exact hcleared.beginBlock _
  · exact h.consumerRead hc hk
  · have hfreed := h.perform (.data s.mapBase (freedWord (s.halfAt s.mapBase) b))
    exact hfreed.emitBlock hc
  · exact h.emitBlock hc

theorem start (h : s.Inv) (hhalted : s.halted = true) (hfault : s.fault = false) : s.start.Inv := by
  rcases s.start_cases with ⟨hok, e⟩ | ⟨-, e⟩ <;> rw [e]
  · exact { h with
      running := fun _ => hok
      stopped := fun hf => absurd hf (by simp [hfault])
      polling := fun hw => absurd (h.polling hw).1 (by simp [hhalted]) }
  · exact h.raise _

theorem portWrite (h : s.Inv) (r : PortReg) (w : Word) : (s.portWrite r w).Inv := by
  rcases s.portWrite_cases r w with e | ⟨-, -, hhalted, hfault, e⟩ | ⟨hhalted, _, _, _, _, _, e⟩ <;>
    rw [e]
  · exact h
  · exact h.start hhalted hfault
  · exact { h with running := fun hr => absurd hr (by simp [hhalted]) }

theorem blockReset (h : s.Inv) : s.blockReset.Inv :=
  { resetStateMeetsInvariant with
    memory := h.memory
    reading := h.reading
    output := h.output }

theorem launch (h : s.Inv) (b : Word) (n : Nat) (p : Protocol) : (s.launch b n p).Inv :=
  { h with
    memory := Memory.wf_writeHalf b _ h.memory
    reading := rfl }

theorem platformWrite (h : s.Inv) (a : Word) (b : Byte) : (s.platformWrite a b).Inv := by
  rcases s.platformWrite_cases a b with e | ⟨-, e⟩ <;> rw [e]
  · exact h
  · exact { h with memory := Memory.wf_write h.memory a.isLt }

/-! ### What the agents' turns keep -/

/-- An operation of a running producer keeps the invariant. -/
theorem exec (h : s.Inv) (hrunning : s.halted = false) {i : Instr} (hi : exec i s = .next t) : t.Inv := by
  have hok := h.running hrunning
  obtain ⟨-, -, hbase, -⟩ := s.startOk_iff.1 hok
  obtain ⟨-, -, hslot, -⟩ := s.slotAddr_bounds hok
  cases exec_effect hi
  case argRange => exact h.raise _
  case unresponsive => exact h.raise _
  case stay => exact h.stay hrunning
  case ready => exact { h with polling := nofun }
  case seq =>
    have hfirst : { s.transition with j := 0#9 }.Inv := { h.transition with pass := Nat.zero_le _ }
    exact hfirst.advance
  case fillf => exact (h.enqueue (issued_of_mem_blockStores (by omega) _ _)).advance
  case filla => exact (h.enqueue (issued_of_mem_blockStores (by omega) _ _)).advance
  case postf =>
    have hstore := issued_data (a := s.base) (by omega)
      ((postedWord_and_unissued _).trans (variantWord_and_unissued s.v s.j.toNat 0))
    exact (h.enqueue (List.forall_mem_singleton.2 hstore)).advance
  case posta =>
    have hcounted : { s with fc := s.fc + 1#32 }.Inv := { h with }
    exact (hcounted.enqueue (List.forall_mem_singleton.2 (s.issued_handoff hok))).advance
  case hold => exact h
  case fence => exact h.advance
  case loopj hpass => exact { h with pass := pass_succ_le hpass, polling := nofun }
  case jmp tgt => exact h.jumpTo tgt
  case result => exact h.complete _
  case halt => exact { h with running := nofun, stopped := fun _ => rfl, polling := nofun }

/-- A producer's turn keeps the invariant. -/
theorem producerTurn (h : s.Inv) (ht : producerTurn s = .next t) : t.Inv := by
  rcases producerTurn_next ht with ⟨-, rfl⟩ | ⟨-, -, rfl⟩ | ⟨i, hrunning, -, hi⟩
  · exact h
  · exact h.raise _
  · exact h.exec hrunning hi

/-- A turn of any agent keeps the invariant. -/
theorem takeTurn (h : s.Inv) {u : Turn} (ht : takeTurn u s = .next t) : t.Inv := by
  rcases takeTurn_next ht with ⟨-, ht⟩ | ⟨k, -, rfl⟩ | ⟨b, -, rfl⟩ | ⟨_, _, -, rfl⟩
    | ⟨off, w, -, -, -, rfl⟩ | ⟨-, rfl⟩ | ⟨b, n, p, -, rfl | ⟨-, -, rfl⟩⟩ | ⟨a, b, -, rfl⟩
  · exact h.producerTurn ht
  · exact h.drain k
  · exact h.consumerStep b
  · exact { h with }
  · exact h.portWrite (portReg off) w
  · exact h.blockReset
  · exact h
  · exact h.launch b n p
  · exact h.platformWrite a b

end State.Inv

/-- Settles O59: using up a turn changes no field of the invariant, and the turn keeps it. -/
theorem everyStepKeepsInvariant : Obligations.EveryStepKeepsInvariant := by
  intro s t h hstep
  have hafter : s.afterTurn.Inv := { h with }
  exact hafter.takeTurn hstep

/-! ### The producer under the invariant -/

/-- Under the invariant no pending store covers half of the flag word (20_memory.md R74). -/
theorem State.Inv.no_partial_overlap {s : State} (h : s.Inv) (hrunning : s.halted = false) :
    ∀ e ∈ s.sb, e.partlyCovers s.base = false := by
  obtain ⟨-, -, haligned, -⟩ := s.startOk_iff.1 (h.running hrunning)
  intro e he
  cases e with
  | data a v =>
    obtain ⟨hnext, hprev⟩ := even_halves (a := s.base) (by omega) (PendingStore.issued_even (h.pending _ he))
    simp [PendingStore.partlyCovers, hnext, hprev]
  | cmd w => rfl

/-- The region of the four slots holds whatever lies in them (20_memory.md R66, R67). -/
theorem State.mapped_of_slots {s : State} (hok : s.startOk = true)
    (hslots : s.mapBase = s.base ∧ 32768 ≤ s.mapBytes) {a n : Nat} (hlow : s.base.toNat ≤ a)
    (hhigh : a + n ≤ s.base.toNat + 32768) : s.mapped a n = true := by
  obtain ⟨hbase, hbytes⟩ := hslots
  obtain ⟨-, -, -, hfits⟩ := s.startOk_iff.1 hok
  rw [State.mapped_iff, hbase]
  omega

/-- A block that lies in the mapped region is stored. -/
theorem State.fillBlock_answers (s : State) (a : Nat) :
    (∃ t, s.fillBlock a = .next t)
    ∨ s.fillBlock a = .fault .outsideRegion ∧ ¬ s.mapped a 8192 = true := by
  rcases s.fillBlock_cases a with ⟨-, e⟩ | ⟨-, -, e⟩ | ⟨-, hout, e⟩
  · exact .inl ⟨_, e⟩
  · exact .inl ⟨_, e⟩
  · exact .inr ⟨e, by simp [hout]⟩

/-- Under the invariant an operation answers a next state, or is stuck where the slots are not all mapped. -/
theorem State.Inv.exec_answers {s : State} (h : s.Inv) (hrunning : s.halted = false) (i : Instr) :
    (∃ t, Machine.exec i s = .next t)
    ∨ Machine.exec i s = .fault .outsideRegion ∧ ¬ (s.mapBase = s.base ∧ 32768 ≤ s.mapBytes) := by
  have hok := h.running hrunning
  obtain ⟨-, -, -, hslotLow, hslotHigh⟩ := s.slotAddr_bounds hok
  cases i with
  | waitf => exact .inl ⟨_, exec_waitf (h.no_partial_overlap hrunning)⟩
  | fillf =>
    exact (s.fillBlock_answers s.base.toNat).imp_right fun ⟨e, hout⟩ =>
      ⟨e, fun hslots => hout (s.mapped_of_slots hok hslots le_rfl (by omega))⟩
  | filla =>
    exact (s.fillBlock_answers (s.slotAddr s.slot)).imp_right fun ⟨e, hout⟩ =>
      ⟨e, fun hslots => hout (s.mapped_of_slots hok hslots hslotLow hslotHigh)⟩
  | postf =>
    rcases execPostf_cases s with ⟨-, e⟩ | ⟨-, -, e⟩ | ⟨-, hout, e⟩
    · exact .inl ⟨_, e⟩
    · exact .inl ⟨_, e⟩
    · refine .inr ⟨e, fun hslots => ?_⟩
      simp [s.mapped_of_slots hok hslots (n := 2) le_rfl (by omega)] at hout
  | fence => exact .inl (by by_cases he : s.sbEmpty <;> simp [Machine.exec, execFence, he])
  | loopj tgt =>
    rcases execLoopj_cases tgt s with ⟨-, e⟩ | ⟨-, e⟩ | ⟨-, e⟩ <;> exact .inl ⟨_, e⟩
  | dds var pj si =>
    rcases Nat.lt_or_ge pj.toNat 313 with hpass | hpass
    · exact .inl ⟨_, exec_dds_of_lt hpass var si s⟩
    · exact .inl ⟨_, exec_dds_of_le hpass var si s⟩
  | gen var pj si =>
    rcases Nat.lt_or_ge pj.toNat 313 with hpass | hpass
    · exact .inl ⟨_, exec_gen_of_lt hpass var si s⟩
    · exact .inl ⟨_, exec_gen_of_le hpass var si s⟩
  | seq | waita | posta | jmp | lut | shuf | halt => exact .inl ⟨_, rfl⟩

/-- Under the invariant so does a producer's turn. -/
theorem State.Inv.producerTurn_answers {s : State} (h : s.Inv) :
    (∃ t, Machine.producerTurn s = .next t)
    ∨ Machine.producerTurn s = .fault .outsideRegion ∧ ¬ (s.mapBase = s.base ∧ 32768 ≤ s.mapBytes) := by
  rcases producerTurn_cases s with ⟨-, e⟩ | ⟨-, -, e⟩ | ⟨i, hrunning, -, e⟩ <;> rw [e]
  · exact .inl ⟨_, rfl⟩
  · exact .inl ⟨_, rfl⟩
  · exact h.exec_answers hrunning i

/-- Settles O60: the step is the producer's turn, which is not refused in any case and stuck only where the
slots are not mapped. -/
theorem runningProducerIsNeverRefused : Obligations.RunningProducerIsNeverRefused := by
  intro s h hturn
  have hstep : step s = producerTurn s.afterTurn := by rw [step, hturn, takeTurn]
  have hafter : s.afterTurn.Inv := { h with }
  rcases hafter.producerTurn_answers with ⟨t, e⟩ | ⟨e, hunmapped⟩ <;> rw [hstep, e]
  · exact ⟨nofun, fun _ _ => ⟨t, rfl⟩⟩
  · exact ⟨nofun, fun hbase hbytes => absurd ⟨hbase, hbytes⟩ hunmapped⟩

end Sys2Proof.Machine
end

section
/-! The step (00_scope.md R16, 10_state.md R23): which turn runs what, everything a turn of any agent can do to
the block's registers, and the settlements about the producer's turn, the faults and the configuration that
every other turn leaves alone. -/

namespace Sys2Proof.Machine

/-! ### The producer's turn -/

/-- A step in a listed turn of a running producer. -/
theorem step_producer_ok {s : State} {i : Instr} {ts : List Turn} (hturn : s.turns = .producer :: ts)
    (hrunning : s.halted = false) (hdecode : decode s.fetch = .ok i) :
    step s = exec i { s with turns := ts } :=
  (step_producer hturn).trans (producerTurn_ok (s := { s with turns := ts }) hrunning hdecode)

/-- Settles O6: a running producer's turn executes what it fetches, be the turn listed or the default one. -/
theorem stepRunsDecodedInstruction : Obligations.StepRunsDecodedInstruction := by
  intro s i hrunning hdecode
  refine ⟨fun ts hturn => step_producer_ok hturn hrunning hdecode, fun hturns hsb => ?byDefault⟩
  case byDefault => rw [step_no_turn hturns, if_pos hsb, producerTurn_ok hrunning hdecode]

/-- A host write inside the window is never refused (10_state.md R46). -/
theorem hostWriteTurn_ok {off : Nat} (haligned : off % 4 = 0) (hwindow : off < 0x4000) (w : Word) (s : State) :
    hostWriteTurn off 4 w s = .next (s.portWrite (portReg off) w) := by
  simp [hostWriteTurn, portAccessOk, haligned, hwindow]

/-- Settles O8: the three cases of the producer's turn, and the turns of the others, which do not ask whether
it is halted. -/
theorem producerFetchesUnlessHalted : Obligations.ProducerFetchesUnlessHalted := by
  intro s ts
  refine ⟨fun hturn hrunning i hdecode => step_producer_ok hturn hrunning hdecode,
    fun hturn hrunning e hdecode => ?illegal,
    fun hturn hhalted => ?halted, fun k hturn => step_turn hturn, fun b hturn => step_turn hturn,
    fun off w hturn haligned hwindow => ?host⟩
  case illegal =>
    exact (step_producer hturn).trans (producerTurn_error (s := { s with turns := ts }) hrunning hdecode)
  case halted =>
    exact (step_producer hturn).trans (producerTurn_halted (s := { s with turns := ts }) hhalted)
  case host => exact ⟨_, (step_turn hturn).trans (hostWriteTurn_ok haligned hwindow w _)⟩

/-- `FENCE` completes where the store buffer is empty (44_exchange.md R206). -/
theorem exec_fence_of_empty {s : State} (h : s.sb = []) : exec .fence s = .next s.advance :=
  if_pos (List.isEmpty_iff.2 h)

/-- `FENCE` holds where a store is pending (20_memory.md R76). -/
theorem exec_fence_of_pending {s : State} (h : s.sb ≠ []) : exec .fence s = .next s :=
  if_neg (mt List.isEmpty_iff.1 h)

/-- A producer's turn passes while a `FENCE` holds. -/
theorem producerTurn_held {s : State} (hsb : s.sb ≠ []) (hdecode : decode s.fetch = .ok .fence) :
    producerTurn s = .next s := by
  cases hhalted : s.halted with
  | true => exact producerTurn_halted hhalted
  | false => exact (producerTurn_ok hhalted hdecode).trans (exec_fence_of_pending hsb)

/-- Settles O28: by the two cases of `FENCE`; a held one leaves the producer no step. -/
theorem fenceHoldsUntilBufferEmpty : Obligations.FenceHoldsUntilBufferEmpty := by
  intro s
  refine ⟨exec_fence_of_empty, fun hsb => ⟨exec_fence_of_pending hsb, fun hdecode =>
    ⟨?notReady, fun ts hturn => ?passes⟩⟩⟩
  case notReady => simp [State.producerReady, hdecode, State.sbEmpty, hsb]
  case passes =>
    exact (step_producer hturn).trans (producerTurn_held (s := { s with turns := ts }) hsb hdecode)

/-- `HALT` completes in every state (45_control.md R232). -/
theorem exec_halt (s : State) : exec .halt s = .next ({ s with halted := true }).advance := rfl

/-- Settles O32: the effect is `exec_halt`, the reserved bits those of format N, and the oldest pending store
can always be drained. -/
theorem haltStopsTheProducer : Obligations.HaltStopsTheProducer := by
  refine ⟨?effect, ?reserved, fun s e es ts hhalted hsb hturn => ?drains⟩
  case effect => exact exec_halt
  case reserved => exact reservedBitsRaise_of_formatOf (f := .N) rfl
  case drains =>
    refine ⟨_, step_turn hturn, ?_⟩
    rw [State.drain_zero (s := { s with turns := ts }) hsb]
    exact ⟨rfl, by simp [hhalted], by simp⟩

/-! ### Every agent's turn -/

/-- What a turn that answers a next state does to the block's registers. -/
inductive TurnEffect (s : State) : Turn → State → Prop where
  /-- The producer's turn. -/
  | producer {t} (h : producerTurn s = .next t) : TurnEffect s .producer t
  /-- The drain, the consumer, a host read, an ignored host write and the platform leave every register
  alone. -/
  | other {u} {m : Memory} {c b : Word} {es : List PendingStore} {n : Nat} {p : Protocol} {x : Consumer}
      {buf : List Half} {out : List (List Half)} {seen : List Word} (hproducer : u ≠ .producer)
      (hreset : u ≠ .reset) :
      TurnEffect s u { s with
        mem := m, cmdReg := c, sb := es, mapBase := b, mapBytes := n, cproto := p, consumer := x, buf := buf
        emitted := out, hostSeen := seen }
  /-- 10_state.md R46 (3): a configuration write of a halted block. -/
  | configure {off w} (hhalted : s.halted = true) (b l : Word) (n : BitVec 16) (p : Vector Word 256)
      (m : Vector Word 2048) :
      TurnEffect s (.hostWrite off 4 w)
        { s with base := b, waitlim := l, msglen := n, prog := p, msg := m }
  /-- 10_state.md R41: a start. -/
  | start {w} (hbit : w.getLsbD 0 = true) (hhalted : s.halted = true) (hfault : s.fault = false) :
      TurnEffect s (.hostWrite 0 4 w) s.start
  /-- 70_reset_and_hazards.md R280. -/
  | reset : TurnEffect s .reset s.blockReset

/-- A turn that answers a next state has one of the effects. -/
theorem takeTurn_effect {u : Turn} {s t : State} (h : takeTurn u s = .next t) : TurnEffect s u t := by
  rcases takeTurn_next h with ⟨rfl, ht⟩ | ⟨k, rfl, rfl⟩ | ⟨b, rfl, rfl⟩ | ⟨_, _, rfl, rfl⟩
    | ⟨off, w, rfl, -, -, rfl⟩ | ⟨rfl, rfl⟩ | ⟨b, n, p, rfl, rfl | ⟨-, -, rfl⟩⟩ | ⟨a, b, rfl, rfl⟩
  · exact .producer ht
  · obtain ⟨m, c, es, e⟩ := s.drain_eq k
    rw [e]
    exact .other (s := s) nofun nofun
  · obtain ⟨m, c, x, y, z, e⟩ := s.consumerStep_eq b
    rw [e]
    exact .other (s := s) nofun nofun
  · exact .other (s := s) nofun nofun
  · rcases s.portWrite_cases (portReg off) w with e | ⟨hctrl, hbit, hhalted, hfault, e⟩
      | ⟨hhalted, b, l, n, p, m, e⟩ <;> rw [e]
    · exact .other (s := s) nofun nofun
    · cases portReg_ctrl hctrl
      exact .start hbit hhalted hfault
    · exact .configure hhalted b l n p m
  · exact .reset
  · exact .other (s := t) nofun nofun
  · exact .other (s := s) nofun nofun
  · rcases s.platformWrite_cases a b with e | ⟨-, e⟩ <;> rw [e]
    · exact .other (s := s) nofun nofun
    · exact .other (s := s) nofun nofun

/-- A step that answers a next state has one of the effects of its turn. -/
theorem step_effect {s t : State} (h : step s = .next t) : TurnEffect s.afterTurn s.nextTurn t :=
  takeTurn_effect h

/-- The next state of a halted producer's turn. -/
theorem producerTurn_next_halted {s t : State} (hhalted : s.halted = true) (h : producerTurn s = .next t) :
    t = s := by
  rw [producerTurn_halted hhalted] at h
  cases h
  rfl

/-- Settles O39: a turn that is neither reset nor a start, which a fault forbids, writes none of the registers
of a halted block's fault. -/
theorem faultIsStickyUntilReset : Obligations.FaultIsStickyUntilReset := by
  intro s t hfault hhalted hreset h
  have heffect := step_effect h
  generalize s.nextTurn = u at heffect hreset
  cases heffect with
  | producer ht =>
    rw [producerTurn_next_halted (s := s.afterTurn) hhalted ht]
    exact ⟨hfault, hhalted, rfl, rfl, rfl⟩
  | other => exact ⟨hfault, hhalted, rfl, rfl, rfl⟩
  | configure => exact ⟨hfault, hhalted, rfl, rfl, rfl⟩
  | start _ _ hnone => exact absurd hfault (Bool.eq_false_iff.1 hnone)
  | reset => exact absurd rfl hreset

/-- A producer's turn leaves the configuration alone (10_state.md R46 (3)). -/
theorem producerTurn_sameConfig {s t : State} (h : producerTurn s = .next t) : s.sameConfig t := by
  rcases producerTurn_next h with ⟨-, rfl⟩ | ⟨-, -, rfl⟩ | ⟨i, -, -, hi⟩
  · exact ⟨rfl, rfl, rfl, rfl, rfl⟩
  · exact ⟨rfl, rfl, rfl, rfl, rfl⟩
  · exact exec_sameConfig hi

/-- Settles O41: the turns that write the configuration are reset and, of a halted block only, a host write. -/
theorem configurationFixedWhileRunning : Obligations.ConfigurationFixedWhileRunning := by
  intro s t hrunning hreset h
  have heffect := step_effect h
  generalize s.nextTurn = u at heffect hreset
  cases heffect with
  | producer ht => exact producerTurn_sameConfig (s := s.afterTurn) ht
  | other => exact ⟨rfl, rfl, rfl, rfl, rfl⟩
  | configure hhalted => exact absurd hhalted (Bool.eq_false_iff.1 hrunning)
  | start _ hhalted => exact absurd hhalted (Bool.eq_false_iff.1 hrunning)
  | reset => exact absurd rfl hreset

/-- Settles O42: the turns of the other agents leave `HALTED` of a running producer alone. -/
theorem onlyProducerOrResetStopsTheProducer : Obligations.OnlyProducerOrResetStopsTheProducer := by
  intro s t hrunning h hhalted
  have heffect := step_effect h
  generalize s.nextTurn = u at heffect
  cases heffect with
  | producer => exact .inl rfl
  | reset => exact .inr rfl
  | other => exact absurd hhalted (Bool.eq_false_iff.1 hrunning)
  | configure hstopped => exact absurd hstopped (Bool.eq_false_iff.1 hrunning)
  | start _ hstopped => exact absurd hstopped (Bool.eq_false_iff.1 hrunning)

/-- Settles O43: of the turns that act on a halted block only a start writes `HALTED`, and one that fails its
check halts it again. -/
theorem onlyAHostStartReleasesTheProducer : Obligations.OnlyAHostStartReleasesTheProducer := by
  intro s t hhalted h hrunning
  have heffect := step_effect h
  generalize s.nextTurn = u at heffect
  cases heffect with
  | producer ht =>
    rw [producerTurn_next_halted (s := s.afterTurn) hhalted ht] at hrunning
    exact absurd hhalted (Bool.eq_false_iff.1 hrunning)
  | other => exact absurd hhalted (Bool.eq_false_iff.1 hrunning)
  | configure => exact absurd hhalted (Bool.eq_false_iff.1 hrunning)
  | reset => nomatch hrunning
  | @start w hbit _ hfault =>
    rcases s.afterTurn.start_cases with ⟨hok, -⟩ | ⟨-, e⟩
    · exact ⟨w, rfl, hbit, hfault, s.afterTurn.startOk_iff.1 hok⟩
    · rw [e] at hrunning
      nomatch hrunning

/-! ### Shared memory -/

/-- A producer's turn leaves shared memory alone (20_memory.md R69). -/
theorem producerTurn_sameShared {s t : State} (h : producerTurn s = .next t) : s.sameShared t := by
  rcases producerTurn_next h with ⟨-, rfl⟩ | ⟨-, -, rfl⟩ | ⟨i, -, -, hi⟩
  · exact State.sameShared_of_eq rfl rfl
  · exact State.sameShared_of_eq rfl rfl
  · obtain ⟨hmem, hcmd⟩ := exec_shared hi
    exact State.sameShared_of_eq hmem hcmd

/-- A host write leaves shared memory alone. -/
theorem State.portWrite_sameShared (s : State) (r : PortReg) (w : Word) : s.sameShared (s.portWrite r w) := by
  rcases s.portWrite_cases r w with e | ⟨-, -, -, -, e⟩ | ⟨-, _, _, _, _, _, e⟩ <;> rw [e]
  · exact State.sameShared_of_eq rfl rfl
  · rcases s.start_cases with ⟨-, e⟩ | ⟨-, e⟩ <;> rw [e] <;> exact State.sameShared_of_eq rfl rfl
  · exact State.sameShared_of_eq rfl rfl

/-- A launch while the producer runs changes nothing (log entry 5). -/
theorem launchTurn_next_running {b : Word} {n : Nat} {p : Protocol} {s t : State}
    (hrunning : s.halted = false) (h : launchTurn b n p s = .next t) : t = s := by
  rcases launchTurn_next h with e | ⟨-, hhalted, -⟩
  · exact e
  · exact absurd hhalted (Bool.eq_false_iff.1 hrunning)

/-- Nor does a byte write of the platform. -/
theorem State.platformWrite_running {s : State} (hrunning : s.halted = false) (a : Word) (b : Byte) :
    s.platformWrite a b = s := by
  simp [State.platformWrite, hrunning]

/-- Settles O40: turn by turn; of those named none has an effect on shared memory. -/
theorem sharedMemoryHasItsWriters : Obligations.SharedMemoryHasItsWriters := by
  intro s t h hturn
  change s.afterTurn.sameShared t
  rcases hturn with hu | hu | ⟨off, n, hu⟩ | ⟨off, n, w, hu⟩ | ⟨hrunning, ⟨b, n, p, hu⟩ | ⟨a, b, hu⟩⟩ <;>
    rw [step, hu] at h
  · exact producerTurn_sameShared h
  · cases h
    exact State.sameShared_blockReset s.afterTurn
  · rw [hostReadTurn_next h]
    exact State.sameShared_of_eq rfl rfl
  · obtain ⟨-, -, -, rfl⟩ := hostWriteTurn_next h
    exact State.portWrite_sameShared s.afterTurn (portReg off) w
  · rw [launchTurn_next_running (s := s.afterTurn) hrunning h]
    exact State.sameShared_of_eq rfl rfl
  · cases h
    rw [State.platformWrite_running (s := s.afterTurn) hrunning]
    exact State.sameShared_of_eq rfl rfl

/-- Settles O45: one of the three conditions of a start fails. -/
theorem otherControlWritesAreIgnored : Obligations.OtherControlWritesAreIgnored := by
  intro s w ts hturn hother
  have hnot : ¬ (w.getLsbD 0 = true ∧ s.halted = true ∧ ¬ s.fault = true) := by
    rintro ⟨hbit, hhalted, hfault⟩
    rcases hother with h | h | h
    · exact Bool.eq_false_iff.1 h hbit
    · exact Bool.eq_false_iff.1 h hhalted
    · exact hfault h
  rw [step_hostWrite_ctrl hturn]
  exact congrArg Host.Outcome.next (if_neg hnot)

end Sys2Proof.Machine
end

section
/-! Runs of equal turns: one induction for all of them, and the settlements about a `LOOPJ` to its own index
(45_control.md R230) and about repeated polls (44_exchange.md R182, R183). -/

namespace Sys2Proof.Machine

/-- A property that every turn `u` of a run of equal turns takes one step further holds after them. -/
theorem run_replicate {P : Nat → State → Prop} {u : Turn} {s : State} {n m : Nat} (hm : m ≤ n)
    (hturns : s.turns = List.replicate n u) (hzero : P 0 s)
    (hstep : ∀ k < m, ∀ x ts, P k x → x.turns = u :: ts → ∃ y, step x = .next y ∧ P (k + 1) y) :
    ∃ t, Sys2Proof.core.run m s = .next t ∧ P m t ∧ t.turns = List.replicate (n - m) u := by
  have hrun : ∃ t, Sys2Proof.core.run m s = .next t ∧ P m t := by
    induction m with
    | zero => exact ⟨s, rfl, hzero⟩
    | succ m ih =>
      obtain ⟨x, hx, hP⟩ := ih (by omega) fun k hk => hstep k (by omega)
      have hnext : x.turns = u :: List.replicate (n - (m + 1)) u := by
        rw [run_turns hx, hturns, List.drop_replicate, ← List.replicate_succ]
        congr 1
        omega
      obtain ⟨y, hy, hP'⟩ := hstep m (by omega) x _ hP hnext
      exact ⟨y, (run_add hx 1).trans (run_one hy), hP'⟩
  obtain ⟨t, ht, hP⟩ := hrun
  exact ⟨t, ht, hP, by rw [run_turns ht, hturns, List.drop_replicate]⟩

/-- What is fetched depends on `PROG` and `pc` alone (10_state.md R23). -/
theorem State.fetch_congr {s t : State} (hprog : t.prog = s.prog) (hpc : t.pc = s.pc) : t.fetch = s.fetch := by
  simp only [State.fetch, hprog, hpc]

/-! ### A loop to its own index -/

/-- `LOOPJ` below the last pass (45_control.md R230). -/
theorem exec_loopj_of_lt {s : State} (h : s.j.toNat < 312) (tgt : BitVec 8) :
    exec (.loopj tgt) s = .next { s with j := s.j + 1#9, pc := tgt, waiting := false } := by
  rcases execLoopj_cases tgt s with ⟨hj, -⟩ | ⟨hj, -⟩ | ⟨-, e⟩
  · omega
  · omega
  · exact e

/-- `LOOPJ` at the last pass. -/
theorem exec_loopj_of_eq {s : State} (h : s.j.toNat = 312) (tgt : BitVec 8) :
    exec (.loopj tgt) s = .next { s with j := 313#9, pc := s.pc + 1#8, waiting := false } := by
  rcases execLoopj_cases tgt s with ⟨hj, -⟩ | ⟨-, e⟩ | ⟨hj, -⟩
  · omega
  · exact e
  · omega

/-- `LOOPJ` past the last pass. -/
theorem exec_loopj_of_le {s : State} (h : 313 ≤ s.j.toNat) (tgt : BitVec 8) :
    exec (.loopj tgt) s = .next (s.raise .argRange) := by
  rcases execLoopj_cases tgt s with ⟨-, e⟩ | ⟨hj, -⟩ | ⟨hj, -⟩
  · exact e
  · omega
  · omega

/-- Settles O30: the three ranges of `J`, and the reserved bits of format T. -/
theorem loopjAdvancesAndBranches : Obligations.LoopjAdvancesAndBranches :=
  ⟨fun tgt _ => ⟨fun h => exec_loopj_of_lt h tgt, fun h => exec_loopj_of_eq h tgt,
    fun h => exec_loopj_of_le h tgt⟩, reservedBitsRaise_of_formatOf (f := .T) rfl⟩

/-- A state `k` rounds after `s` of a loop at `s` to its own index. -/
structure LoopedTo (s : State) (k : Nat) (x : State) : Prop where
  running : x.halted = false
  word : decode x.fetch = .ok (.loopj s.pc)
  pc : x.pc = s.pc
  pass : x.j.toNat = s.j.toNat + k
  fault : x.fault = s.fault

/-- A round of the loop before the last pass. -/
theorem LoopedTo.step {s x : State} {k : Nat} {ts : List Turn} (h : LoopedTo s k x) (hk : s.j.toNat + k < 312)
    (hturn : x.turns = .producer :: ts) : ∃ y, Machine.step x = .next y ∧ LoopedTo s (k + 1) y := by
  have hpass := h.pass
  have hlt : x.j.toNat < 312 := by omega
  refine ⟨_, (step_producer_ok hturn h.running h.word).trans
    (exec_loopj_of_lt (s := { x with turns := ts }) hlt s.pc), h.running, ?word, rfl, ?pass, h.fault⟩
  case word =>
    refine (congrArg decode (State.fetch_congr (s := x) ?_ ?_)).trans h.word
    · rfl
    · exact h.pc.symm
  case pass =>
    change (x.j + 1#9).toNat = _
    rw [BitVec.toNat_add, BitVec.toNat_ofNat]
    omega

/-- Settles O33: every round but the last stays at the index, and the last one falls through. -/
theorem selfLoopRunsThePassesLeft : Obligations.SelfLoopRunsThePassesLeft := by
  intro s n hrunning hpass hdecode hturns
  have hzero : LoopedTo s 0 s := ⟨hrunning, hdecode, rfl, rfl, rfl⟩
  have rounds {m : Nat} (hm : m ≤ n) (hlast : s.j.toNat + m < 313) :=
    run_replicate (P := LoopedTo s) hm hturns hzero fun k hk x ts hx hturn =>
      hx.step (by omega) hturn
  refine ⟨fun hn => ?stays, fun hn => ?falls⟩
  case stays =>
    obtain ⟨t, ht, h, -⟩ := rounds le_rfl (by omega)
    exact ⟨t, ht, h.pc, h.pass, h.fault⟩
  case falls =>
    obtain ⟨m, rfl⟩ : ∃ m, n = m + 1 := ⟨n - 1, by omega⟩
    obtain ⟨x, hx, h, hlast⟩ := rounds m.le_succ (by omega)
    rw [Nat.add_sub_cancel_left] at hlast
    have hfull : x.j.toNat = 312 := by
      have := h.pass
      omega
    have hstep := (step_producer_ok hlast h.running h.word).trans
      (exec_loopj_of_eq (s := { x with turns := [] }) hfull s.pc)
    exact ⟨_, (run_add hx 1).trans (run_one hstep), congrArg (· + 1#8) h.pc, rfl, h.fault⟩

/-! ### Repeated polls -/

/-- A state in which the producer is found at a `WAITA` of `s` that has to stay. -/
structure PollingAt (s : State) (x : State) : Prop where
  running : x.halted = false
  fault : x.fault = false
  pc : x.pc = s.pc
  word : decode x.fetch = .ok .waita
  limit : x.waitlim = s.waitlim
  busy : x.loadCmd ≠ 0#32

/-- The step of a busy `WAITA`. -/
theorem PollingAt.step_eq {s x : State} {ts : List Turn} (h : PollingAt s x)
    (hturn : x.turns = .producer :: ts) : step x = .next ({ x with turns := ts }.poll true) := by
  rw [step_producer_ok hturn h.running h.word, exec_waita]
  exact congrArg (fun b => Host.Outcome.next (State.poll _ b)) (bne_iff_ne.2 h.busy)

/-- A busy `WAITA` below its limit stays with the next count. -/
theorem PollingAt.stay {s x : State} {ts : List Turn} (h : PollingAt s x) (hturn : x.turns = .producer :: ts)
    (hlimit : s.waitlim = 0#32 ∨ nextCount x.wcnt < s.waitlim.toNat) :
    ∃ y, step x = .next y ∧ PollingAt s y ∧ y.wcnt.toNat = nextCount x.wcnt ∧ y.waiting = true := by
  rw [← h.limit] at hlimit
  refine ⟨_, (h.step_eq hturn).trans (congrArg _ (State.poll_true_of_lt_limit (s := { x with turns := ts })
    hlimit)), ⟨h.running, h.fault, h.pc, h.word, h.limit, h.busy⟩, nextCount_toNat x.wcnt, rfl⟩

/-- Settles O34: below the limit the polls stay and are counted, and the one that reaches it faults. -/
theorem boundedWaitFaultsAtTheLimit : Obligations.BoundedWaitFaultsAtTheLimit := by
  intro s n hrunning hfault hcount hset hdecode hbusy hturns
  have hlimit := s.waitlim.isLt
  have hzero : PollingAt s s ∧ s.wcnt.toNat = 0 :=
    ⟨⟨hrunning, hfault, rfl, hdecode, rfl, hbusy⟩, by simp [hcount]⟩
  have polls {m : Nat} (hm : m ≤ n) (hbelow : m < s.waitlim.toNat) :=
    run_replicate (P := fun k x => PollingAt s x ∧ x.wcnt.toNat = k) hm hturns hzero
      fun k hk x ts ⟨hx, hxcount⟩ hturn => by
        have hnext : nextCount x.wcnt = k + 1 := by
          rw [nextCount, hxcount]
          omega
        obtain ⟨y, hy, hpoll, hcount, -⟩ := hx.stay hturn (.inr (by omega))
        exact ⟨y, hy, hpoll, hcount.trans hnext⟩
  refine ⟨fun hn => ?stays, fun hn => ?faults⟩
  case stays =>
    obtain ⟨t, ht, ⟨h, hcount⟩, -⟩ := polls le_rfl hn
    exact ⟨t, ht, hcount, h.fault, h.running, h.pc⟩
  case faults =>
    have hpos : s.waitlim.toNat ≠ 0 := fun h0 => hset (BitVec.eq_of_toNat_eq h0)
    obtain ⟨m, rfl⟩ : ∃ m, n = m + 1 := ⟨n - 1, by omega⟩
    obtain ⟨x, hx, ⟨h, hcount⟩, hlast⟩ := polls m.le_succ (by omega)
    rw [Nat.add_sub_cancel_left] at hlast
    have hreached : x.waitlim.toNat ≤ nextCount x.wcnt := by
      rw [nextCount, hcount, h.limit]
      omega
    have hstep := (h.step_eq hlast).trans (congrArg _ (State.poll_true_of_limit_le
      (s := { x with turns := [] }) (h.limit ▸ hset) hreached))
    exact ⟨_, (run_add hx 1).trans (run_one hstep), by simp [hcount, ← hn], rfl, rfl, rfl, h.pc, h.pc⟩

/-- Settles O35: with no limit every poll stays, and the count saturates step by step. -/
theorem unboundedPollNeverFaults : Obligations.UnboundedPollNeverFaults := by
  intro s n hrunning hfault hnone hdecode hbusy hturns
  have hword := s.wcnt.isLt
  obtain ⟨t, ht, ⟨h, hcount, hwaiting⟩, -⟩ := run_replicate
    (P := fun k x => PollingAt s x ∧ x.wcnt.toNat = min (s.wcnt.toNat + k) (2 ^ 32 - 1)
      ∧ (1 ≤ k → x.waiting = true)) le_rfl hturns
    ⟨⟨hrunning, hfault, rfl, hdecode, rfl, hbusy⟩, by omega, by omega⟩
    fun k _ x ts ⟨hx, hxcount, _⟩ hturn => by
      obtain ⟨y, hy, hpoll, hcount, hwaiting⟩ := hx.stay hturn (.inl hnone)
      refine ⟨y, hy, hpoll, ?_, fun _ => hwaiting⟩
      rw [hcount, nextCount, hxcount]
      omega
  exact ⟨t, ht, hcount, h.fault, h.running, h.pc, hwaiting⟩

end Sys2Proof.Machine
end

section
/-! The scheduler's step in every state (43_sequencer.md R164, R165) and the producer's side of the buffer
exchange (44_exchange.md R183 to R197): what the polls load, what the storing operations issue and where they
are stuck, and the settlements of these statements. -/

namespace Sys2Proof.Machine

/-! ### The scheduler -/

/-- With a message to index the new `OFFSET` is inside it (43_sequencer.md R162 step 1). -/
theorem State.nextOffset_lt {s : State} (h : s.msglen ≠ 0#16) : s.nextOffset.toNat < s.msglen.toNat := by
  have hpos : s.msglen.toNat ≠ 0 := fun h0 => h (BitVec.eq_of_toNat_eq h0)
  rw [State.nextOffset_toNat (Nat.pos_of_ne_zero hpos)]
  exact Nat.mod_lt _ (Nat.pos_of_ne_zero hpos)

/-- Settles O21: the step is `exec_seq`, which asks nothing of the state; `MSGLEN` decides only where the new
`OFFSET` comes from. -/
theorem seqCompletesInEveryState : Obligations.SeqCompletesInEveryState := by
  intro s
  obtain ⟨hphase, hup, hdown⟩ :=
    getLsbD_variantIndex (if s.new then s.phase else !s.phase) (!s.new) (!s.msgBit s.nextOffset)
  exact ⟨_, exec_seq s, rfl, rfl, rfl, rfl, rfl, fun h0 => if_pos h0, State.nextOffset_lt, hphase, hup, hdown,
    rfl, State.sameShared_of_eq rfl rfl, ⟨rfl, rfl, rfl, rfl, rfl⟩⟩

/-! ### What the polls load -/

/-- A store elsewhere has no value for a data location. -/
theorem PendingStore.dataAt_eq_none {a : Word} {e : PendingStore} (h : e.loc ≠ .data a) :
    e.dataAt a = none := by
  cases e with
  | data b v => exact if_neg fun hb => h (congrArg Loc.data hb)
  | cmd w => rfl

/-- A store elsewhere has no value for `CMD`. -/
theorem PendingStore.cmdValue_eq_none {e : PendingStore} (h : e.loc ≠ .cmd) : e.cmdValue = none := by
  cases e with
  | data b v => rfl
  | cmd w => exact absurd rfl h

/-- With no store pending to its location, a 16-bit load reads shared memory (20_memory.md R74). -/
theorem State.loadHalf_of_none {s : State} {a : Word} (h : ∀ e ∈ s.sb, e.loc ≠ .data a) :
    s.loadHalf a = s.halfAt a := by
  have hnone : s.sb.filterMap (PendingStore.dataAt a) = [] :=
    List.filterMap_eq_nil_iff.2 fun e he => PendingStore.dataAt_eq_none (h e he)
  rw [State.loadHalf, hnone]
  rfl

/-- With no store pending to `CMD` a load of it reads the command register. -/
theorem State.loadCmd_of_none {s : State} (h : ∀ e ∈ s.sb, e.loc ≠ .cmd) : s.loadCmd = s.cmdReg := by
  have hnone : s.sb.filterMap PendingStore.cmdValue = [] :=
    List.filterMap_eq_nil_iff.2 fun e he => PendingStore.cmdValue_eq_none (h e he)
  rw [State.loadCmd, hnone]
  rfl

/-- A 16-bit load is forwarded from the youngest store to its location. -/
theorem State.loadHalf_of_youngest {s : State} {a : Word} {v : Half} {older younger : List PendingStore}
    (hsb : s.sb = older ++ .data a v :: younger) (h : ∀ e ∈ younger, e.loc ≠ .data a) : s.loadHalf a = v := by
  rw [State.loadHalf, hsb, filterMap_getLast? (f := PendingStore.dataAt a) (e := .data a v) (if_pos rfl)
    fun e he => PendingStore.dataAt_eq_none (h e he)]
  rfl

/-- A load of `CMD` is forwarded from the youngest store to it. -/
theorem State.loadCmd_of_youngest {s : State} {w : Word} {older younger : List PendingStore}
    (hsb : s.sb = older ++ .cmd w :: younger) (h : ∀ e ∈ younger, e.loc ≠ .cmd) : s.loadCmd = w := by
  rw [State.loadCmd, hsb, filterMap_getLast? (f := PendingStore.cmdValue) (e := .cmd w) rfl
    fun e he => PendingStore.cmdValue_eq_none (h e he)]
  rfl

/-- A 16-bit value of shared memory as a number, little-endian (20_memory.md R60). -/
theorem State.halfAt_toNat (s : State) (a : Word) :
    (s.halfAt a).toNat = (s.byteAt a.toNat).toNat + 256 * (s.byteAt (a + 1#32).toNat).toNat := by
  rw [State.halfAt, toNat_append_add]
  omega

/-- Bit 8 of a 16-bit value is bit 0 of its second byte. -/
theorem State.getLsbD_halfAt_busy (s : State) (a : Word) :
    (s.halfAt a).getLsbD 8 = (s.byteAt (a + 1#32).toNat).getLsbD 0 := by
  rw [State.halfAt, BitVec.getLsbD_append]
  rfl

/-- Settles O23: the four answers of a load, and the refusal of a partial overlap. -/
theorem pollsLoadForwardedOrShared : Obligations.PollsLoadForwardedOrShared := by
  intro s
  refine ⟨fun hnone => ?shared, State.loadCmd_of_none, fun _ _ _ => State.loadHalf_of_youngest,
    fun _ _ _ => State.loadCmd_of_youngest, fun hpart => ?refused⟩
  case shared =>
    rw [State.loadHalf_of_none fun e he => (hnone e he).1]
    exact ⟨s.halfAt_toNat s.base, s.getLsbD_halfAt_busy s.base⟩
  case refused =>
    rcases execWaitf_cases s with ⟨-, e⟩ | ⟨hnone, -⟩
    · exact e
    · obtain ⟨e, he, hcovers⟩ := hpart
      exact absurd hcovers (by simp [hnone e he])

/-! ### What the storing operations issue -/

section
variable {s : State}

/-- A block in the mapped region is stored (R186, R195). -/
theorem State.fillBlock_of_mapped {a : Nat} (hpass : s.j.toNat < 313) (hmapped : s.mapped a 8192 = true) :
    s.fillBlock a = .next (s.enqueue (blockStores a s.v s.j.toNat)).advance := by
  rcases s.fillBlock_cases a with ⟨hj, -⟩ | ⟨-, -, e⟩ | ⟨-, hout, -⟩
  · omega
  · exact e
  · simp [hout] at hmapped

/-- A block of a pass out of range takes the `ARG_RANGE` fault. -/
theorem State.fillBlock_of_le (hpass : 313 ≤ s.j.toNat) (a : Nat) :
    s.fillBlock a = .next (s.raise .argRange) := by
  rcases s.fillBlock_cases a with ⟨-, e⟩ | ⟨hj, -⟩ | ⟨hj, -⟩
  · exact e
  · omega
  · omega

/-- A block of a pass in range is stuck exactly where it is not mapped (20_memory.md R66). -/
theorem State.fillBlock_stuck_iff {a : Nat} (hpass : s.j.toNat < 313) :
    s.fillBlock a = .fault .outsideRegion ↔ s.mapped a 8192 = false := by
  rcases s.fillBlock_cases a with ⟨hj, -⟩ | ⟨-, hin, e⟩ | ⟨-, hout, e⟩
  · omega
  · simp [hin, e]
  · simp [hout, e]

/-- `POSTF` in the mapped region stores the flagged word (R187). -/
theorem exec_postf_of_mapped (hpass : s.j.toNat < 313) (hmapped : s.mapped s.base.toNat 2 = true) :
    exec .postf s = .next (s.enqueue [.data s.base (postedWord (variantWord s.v s.j.toNat 0))]).advance := by
  rcases execPostf_cases s with ⟨hj, -⟩ | ⟨-, -, e⟩ | ⟨-, hout, -⟩
  · omega
  · exact e
  · simp [hout] at hmapped

/-- `POSTF` with a pass out of range takes the `ARG_RANGE` fault. -/
theorem exec_postf_of_le (hpass : 313 ≤ s.j.toNat) : exec .postf s = .next (s.raise .argRange) := by
  rcases execPostf_cases s with ⟨-, e⟩ | ⟨hj, -⟩ | ⟨hj, -⟩
  · exact e
  · omega
  · omega

/-- `POSTF` with a pass in range is stuck exactly where the flag word is not mapped (20_memory.md R66). -/
theorem exec_postf_stuck_iff (hpass : s.j.toNat < 313) :
    exec .postf s = .fault .outsideRegion ↔ s.mapped s.base.toNat 2 = false := by
  rcases execPostf_cases s with ⟨hj, -⟩ | ⟨-, hin, e⟩ | ⟨-, hout, e⟩
  · omega
  · simp [hin, exec, e]
  · simp [hout, exec, e]

end

/-- In pass 0 of a ramp-up every word is that of envelope 0 (41_modulator.md R128). -/
theorem variantWord_rampUp_zero {v : BitVec 3} (hup : variantUp v = true) (i : Nat) :
    variantWord v 0 i = 0x00AF#16 :=
  variantWord_of_mag_eq_zero ((mag_eq_zero_iff (by norm_num) _ _).2 (.inl ⟨hup, by norm_num⟩)) i

/-- Settles O24: the two ranges of `J`, the reserved bits of format N, and the words of the block. -/
theorem fillfIssuesTheBlock : Obligations.FillfIssuesTheBlock := by
  refine ⟨fun s => ⟨?stores, ?fault⟩, ?reserved, fun v j => ⟨?busy, ?new⟩, ?rampUp⟩
  case stores => exact State.fillBlock_of_mapped
  case fault => exact fun h => State.fillBlock_of_le h _
  case reserved => exact reservedBitsRaise_of_formatOf (f := .N) rfl
  case busy => exact getLsbD_shuffle_of_none rfl (variantSample v j 0)
  case new => exact getLsbD_shuffle_of_none rfl (variantSample v j 0)
  case rampUp => exact fun k _ => variantWord_rampUp_zero rfl k

/-- The flag bits are bits 8 and 15 (R187). -/
theorem getLsbD_or_flagBits (w : Half) {k : Nat} (hbusy : k ≠ 8) (hnew : k ≠ 15) :
    (w ||| 0x8100#16).getLsbD k = w.getLsbD k := by
  rcases Nat.lt_or_ge k 16 with hk | hk
  · have clear : ∀ k < 16, k ≠ 8 → k ≠ 15 → (0x8100#16).getLsbD k = false := by decide
    rw [BitVec.getLsbD_or, clear k hk hbusy hnew, Bool.or_false]
  · rw [BitVec.getLsbD_of_ge _ _ hk, BitVec.getLsbD_of_ge _ _ hk]

/-- Settles O25, as O24, with the flagged word bit by bit. -/
theorem postfStoresTheFlaggedWord : Obligations.PostfStoresTheFlaggedWord := by
  refine ⟨fun s => ⟨?stores, ?fault⟩, ?reserved, ?bits, ?rampUp⟩
  case stores => exact exec_postf_of_mapped
  case fault => exact exec_postf_of_le
  case reserved => exact reservedBitsRaise_of_formatOf (f := .N) rfl
  case bits => exact fun v j k hbusy hnew => getLsbD_or_flagBits (variantWord v j 0) hbusy hnew
  case rampUp => rw [variantWord_rampUp_zero rfl]; rfl

/-- Settles O26, as O24, with the first words of block (0, 0) by evaluation. -/
theorem fillaIssuesTheBlockInItsSlot : Obligations.FillaIssuesTheBlockInItsSlot := by
  refine ⟨fun s => ⟨?stores, ?fault⟩, ?reserved, rfl, rfl, rfl, rfl⟩
  case stores => exact State.fillBlock_of_mapped
  case fault => exact fun h => State.fillBlock_of_le h _
  case reserved => exact reservedBitsRaise_of_formatOf (f := .N) rfl

/-- `POSTA` completes in every state (R197). -/
theorem exec_posta (s : State) : exec .posta s
    = .next (({ s with fc := s.fc + 1#32 }).enqueue [.cmd (address (s.slotAddr s.slot))]).advance := rfl

/-- Settles O27: the effect is `exec_posta`, and under the start check the slot's address fits and is not 0. -/
theorem postaHandsOffTheSlot : Obligations.PostaHandsOffTheSlot := by
  refine ⟨?effect, ?reserved, fun s hok => ?slot, rfl, rfl⟩
  case effect => exact exec_posta
  case reserved => exact reservedBitsRaise_of_formatOf (f := .N) rfl
  case slot => exact s.address_slotAddr hok

/-- Settles O29: each operation is stuck exactly where its bytes are not mapped. -/
theorem storesOutsideTheRegionAreStuck : Obligations.StoresOutsideTheRegionAreStuck := by
  intro s hpass
  refine ⟨?fillf, ?postf, ?filla⟩
  case fillf => exact (State.fillBlock_stuck_iff hpass).trans (s.mapped_eq_false _ _ (by norm_num))
  case postf => exact (exec_postf_stuck_iff hpass).trans (s.mapped_eq_false _ _ (by norm_num))
  case filla => exact (State.fillBlock_stuck_iff hpass).trans (s.mapped_eq_false _ _ (by norm_num))

end Sys2Proof.Machine
end

section
/-! The store buffer (20_memory.md R70 to R77): what one drain step does, that it changes no value a producer
load sees, what every order of drains ends with, that the drain is fair, and the settlements of these
statements. -/

namespace Sys2Proof.Machine

/-! ### One drain step -/

section
variable {s : State} {k : Nat}

/-- The drain takes an entry with no older one of its location (R75). -/
theorem State.drain_of_oldest {e : PendingStore} (he : s.sb[k]? = some e)
    (holdest : ∀ o ∈ s.sb.take k, o.loc ≠ e.loc) :
    s.drain k = { s.perform e with sb := s.sb.eraseIdx k } := by
  rw [State.drain, State.drainable?_eq_some.2 ⟨he, holdest⟩]

/-- The drain leaves an entry with an older one of its location (log entry 12). -/
theorem State.drain_of_blocked {e : PendingStore} (he : s.sb[k]? = some e)
    (hblocked : ∃ o ∈ s.sb.take k, o.loc = e.loc) : s.drain k = s := by
  rcases s.drain_cases k with ⟨-, hdrain⟩ | ⟨x, hx, holdest, -⟩
  · exact hdrain
  · cases he.symm.trans hx
    obtain ⟨o, ho, hloc⟩ := hblocked
    exact absurd hloc (holdest o ho)

/-- The drain passes where there is no entry (log entry 12). -/
theorem State.drain_of_none (hnone : s.sb[k]? = none) : s.drain k = s := by
  rcases s.drain_cases k with ⟨-, hdrain⟩ | ⟨x, hx, -⟩
  · exact hdrain
  · nomatch hnone.symm.trans hx

end

/-- The bytes of a 16-bit write (20_memory.md R60). -/
theorem State.byteAt_writeHalf_bytes (s : State) (a : Word) (h : Half) :
    ({ s with mem := s.mem.writeHalf a h }).byteAt a.toNat = h.extractLsb' 0 8
    ∧ ({ s with mem := s.mem.writeHalf a h }).byteAt (a + 1#32).toNat = h.extractLsb' 8 8
    ∧ ∀ x : Nat, x ≠ a.toNat → x ≠ (a + 1#32).toNat →
        ({ s with mem := s.mem.writeHalf a h }).byteAt x = s.byteAt x := by
  have hne : a.toNat ≠ (a + 1#32).toNat := fun e => succ_ne_self a (BitVec.eq_of_toNat_eq e.symm)
  refine ⟨?_, ?_, fun x hlow hhigh => ?_⟩ <;> rw [State.byteAt_writeHalf]
  · rw [if_neg hne, if_pos rfl]
  · rw [if_pos rfl]
  · rw [if_neg hhigh, if_neg hlow]

/-- Settles O46: an entry that may be taken is written to its location, and any other is left. -/
theorem drainPerformsOneStore : Obligations.DrainPerformsOneStore := by
  intro s k ts hturn
  have hstep : step s = .next ({ s with turns := ts }.drain k) := step_turn hturn
  refine ⟨fun a h he holdest => ?data, fun w he holdest => ?cmd, fun e he hblocked => ?blocked,
    fun hnone => ?none⟩
  case data =>
    rw [State.drain_of_oldest (s := { s with turns := ts }) he holdest] at hstep
    exact ⟨_, hstep, rfl, s.byteAt_writeHalf_bytes a h⟩
  case cmd =>
    rw [State.drain_of_oldest (s := { s with turns := ts }) he holdest] at hstep
    exact hstep
  case blocked =>
    rw [State.drain_of_blocked (s := { s with turns := ts }) he hblocked] at hstep
    exact hstep
  case none =>
    rw [State.drain_of_none (s := { s with turns := ts }) hnone] at hstep
    exact hstep

/-! ### Loads -/

/-- The youngest forwarded value is the same once an entry has left the list, when what the load falls back
on has taken that entry's value, or is the same where it had none. -/
theorem forwarded_eraseIdx {α β : Type} {f : α → Option β} {l : List α} {k : Nat} {e : α} {before after : β}
    (he : l[k]? = some e) (hnone : f e = none → after = before)
    (hsome : ∀ b, f e = some b → after = b ∧ ∀ x ∈ l.take k, f x = none) :
    ((l.eraseIdx k).filterMap f).getLast?.getD after = (l.filterMap f).getLast?.getD before := by
  obtain ⟨same, first⟩ := filterMap_eraseIdx (f := f) he
  cases hf : f e with
  | none => rw [same hf, hnone hf]
  | some b =>
    obtain ⟨hafter, holder⟩ := hsome b hf
    rw [first b hf holder, getLast?_cons_getD, hafter]

/-- A drain step changes no value of a 16-bit load at an even address (R77 (c)). -/
theorem State.loadHalf_drain {s : State} (hissued : ∀ e ∈ s.sb, e.issued = true) {a : Word}
    (ha : a.toNat % 2 = 0) (k : Nat) : (s.drain k).loadHalf a = s.loadHalf a := by
  rcases s.drain_cases k with ⟨-, e⟩ | ⟨e, he, holdest, hdrain⟩
  · rw [e]
  rw [hdrain]
  cases e with
  | data b v =>
    refine forwarded_eraseIdx he (fun hnone => ?other) fun v' hv => ?same
    case other =>
      have hne : b ≠ a := fun h => by simp [PendingStore.dataAt, h] at hnone
      obtain ⟨hnext, hprev⟩ :=
        even_halves (PendingStore.issued_even (hissued _ (List.mem_of_getElem? he))) ha
      exact s.halfAt_writeHalf_other b a v hne.symm hnext hprev
    case same =>
      obtain ⟨rfl, rfl⟩ : b = a ∧ v = v' := by simpa [PendingStore.dataAt] using hv
      exact ⟨s.halfAt_writeHalf_self b v, fun x hx => PendingStore.dataAt_eq_none (holdest x hx)⟩
  | cmd w => exact forwarded_eraseIdx he (fun _ => State.halfAt_congr rfl a) nofun

/-- A drain step changes no value of a load of `CMD`. -/
theorem State.loadCmd_drain (s : State) (k : Nat) : (s.drain k).loadCmd = s.loadCmd := by
  rcases s.drain_cases k with ⟨-, e⟩ | ⟨e, he, holdest, hdrain⟩
  · rw [e]
  rw [hdrain]
  cases e with
  | data b v => exact forwarded_eraseIdx he (fun _ => rfl) nofun
  | cmd w =>
    exact forwarded_eraseIdx he nofun fun v hv =>
      ⟨Option.some.inj hv, fun x hx => PendingStore.cmdValue_eq_none (holdest x hx)⟩

/-- Settles O47: by the two lemmas on loads. -/
theorem drainPreservesProducerLoads : Obligations.DrainPreservesProducerLoads :=
  fun s k _ hissued ha => ⟨State.loadHalf_drain hissued ha k, s.loadCmd_drain k⟩

/-- A drain step lists no turn. -/
theorem State.drain_turns (s : State) (k : Nat) : (s.drain k).turns = s.turns :=
  takeTurn_turns (u := .drain k) rfl

/-- A drain step adds no entry to the buffer. -/
theorem State.issued_drain {s : State} (hissued : ∀ e ∈ s.sb, e.issued = true) (k : Nat) :
    ∀ e ∈ (s.drain k).sb, e.issued = true := by
  rcases s.drain_cases k with ⟨-, hdrain⟩ | ⟨o, -, -, hdrain⟩ <;> rw [hdrain]
  · exact hissued
  · exact fun e he => hissued e (List.mem_of_mem_eraseIdx he)

/-- Drain turns in any order change no value a producer load sees. -/
theorem run_drains_loads {s t : State} {ks : List Nat} (hissued : ∀ e ∈ s.sb, e.issued = true)
    (hturns : s.turns = ks.map .drain) (hrun : Sys2Proof.core.run ks.length s = .next t) :
    (∀ a : Word, a.toNat % 2 = 0 → t.loadHalf a = s.loadHalf a) ∧ t.loadCmd = s.loadCmd := by
  induction ks generalizing s with
  | nil =>
    cases hrun
    exact ⟨fun _ _ => rfl, rfl⟩
  | cons k ks ih =>
    have hstep : step s = .next (s.afterTurn.drain k) := by rw [step, State.nextTurn, hturns]; rfl
    rw [List.length_cons, run_succ hstep] at hrun
    have hrest : (s.afterTurn.drain k).turns = ks.map .drain := by
      rw [State.drain_turns, State.afterTurn_turns, hturns]
      rfl
    obtain ⟨hdata, hcmd⟩ := ih (State.issued_drain (s := s.afterTurn) hissued k) hrest hrun
    exact ⟨fun a ha => (hdata a ha).trans (State.loadHalf_drain (s := s.afterTurn) hissued ha k),
      hcmd.trans (s.afterTurn.loadCmd_drain k)⟩

/-- Settles O48: the loads are those of the start, and with the buffer empty they read shared memory. -/
theorem everyDrainOrderEndsAlike : Obligations.EveryDrainOrderEndsAlike := by
  intro s t ks hissued hturns hrun hempty
  obtain ⟨hdata, hcmd⟩ := run_drains_loads hissued hturns hrun
  refine ⟨fun a ha => ?_, ?_⟩
  · rw [← hdata a ha, State.loadHalf_of_none (by simp [hempty])]
  · rw [← hcmd, State.loadCmd_of_none (by simp [hempty])]

/-! ### Fairness -/

/-- A `FENCE` of a running producer completes in its turn where no store is pending (44_exchange.md R206). -/
theorem step_fence_of_empty {s : State} (hturn : s.nextTurn = .producer) (hrunning : s.halted = false)
    (hdecode : decode s.fetch = .ok .fence) (hsb : s.sb = []) : step s = .next s.afterTurn.advance := by
  rw [step, hturn]
  exact (producerTurn_ok (s := s.afterTurn) hrunning hdecode).trans (exec_fence_of_empty hsb)

/-- As many turns of the drain as stores are pending empty the buffer and leave the rest of the block alone, be
they the default ones or listed before a producer's turn; the next turn is then the producer's. -/
theorem run_drains_then_producer {s : State}
    (h : s.turns = [] ∨ s.turns = List.replicate s.sb.length (.drain 0) ++ [.producer]) :
    ∃ m c ts, Sys2Proof.core.run s.sb.length s = .next { s with mem := m, cmdReg := c, sb := [], turns := ts }
      ∧ ({ s with mem := m, cmdReg := c, sb := [], turns := ts } : State).nextTurn = .producer := by
  rcases h with h | h
  · obtain ⟨m, c, e⟩ := run_default_drains h
    exact ⟨m, c, [], by rw [e, ← h], rfl⟩
  · obtain ⟨m, c, e⟩ := run_listed_drains h
    exact ⟨m, c, [.producer], e, rfl⟩

/-- Settles O49: after the listed turns the default ones drain the buffer, and a `FENCE` that finds it empty
completes. -/
theorem fairDrainLetsAFenceComplete : Obligations.FairDrainLetsAFenceComplete := by
  refine ⟨fun s u hrun => ?emptied, fun s hrunning hdecode hturns => ?completes⟩
  case emptied =>
    have hlast : u.turns = [] := by rw [run_turns hrun, List.drop_length]
    obtain ⟨m, c, hdrained⟩ := run_default_drains hlast
    exact ⟨_, (run_add hrun _).trans hdrained, rfl, hlast⟩
  case completes =>
    obtain ⟨m, c, ts, hdrained, hturn⟩ := run_drains_then_producer hturns
    have hfence := step_fence_of_empty hturn hrunning hdecode rfl
    exact ⟨_, (run_add hdrained 1).trans (run_one hfence), rfl, rfl, rfl, rfl⟩

end Sys2Proof.Machine
end

section
/-! The consumer (44_exchange.md R214 to R219): the bits its done step leaves in the flag word, a run of its
reads, and the settlements of the three statements about it. -/

namespace Sys2Proof.Machine

/-- A step in an explicit turn of the consumer. -/
theorem step_consumer {s : State} {b : Bool} {ts : List Turn} (h : s.turns = .consumer b :: ts) :
    step s = .next ({ s with turns := ts }.consumerStep b) := step_turn h

/-- Settles O50: the two cases of an idle consumer of the address-handoff protocol. -/
theorem consumerTakesTheHandoff : Obligations.ConsumerTakesTheHandoff := by
  intro s b ts hturn hproto hidle
  rw [step_consumer hturn, State.consumerStep_idle_addr (s := { s with turns := ts }) hidle hproto]
  exact ⟨fun h => congrArg _ (if_pos h), fun h => congrArg _ (if_neg (not_not_intro h))⟩

/-! ### The flag-bit protocol -/

/-- The bits of the flag word after the done step: bit 8 is cleared, bit 15 is kept or cleared by the draw
(R216). -/
theorem getLsbD_freedWord (f : Half) (keep15 : Bool) (k : Nat) :
    (freedWord f keep15).getLsbD k
      = (decide (k ≠ 8) && ((decide (k ≠ 15) || keep15) && f.getLsbD k)) := by
  rcases Nat.lt_or_ge k 16 with hk | hk
  · have keep : ∀ k < 16, (0x7EFF#16).getLsbD k = (decide (k ≠ 8) && decide (k ≠ 15)) := by decide
    have top : ∀ k < 16, (0x8000#16).getLsbD k = decide (k = 15) := by decide
    have hnew : flagNew f = f.getLsbD 15 := rfl
    rw [freedWord, hnew, BitVec.getLsbD_or, BitVec.getLsbD_and, keep k hk, apply_ite (BitVec.getLsbD · k),
      top k hk, BitVec.getLsbD_zero]
    by_cases h15 : k = 15
    · subst h15
      cases keep15 <;> cases f.getLsbD 15 <;> rfl
    · simp [h15, Bool.and_comm]
  · rw [BitVec.getLsbD_of_ge _ _ hk, BitVec.getLsbD_of_ge _ _ hk]
    simp

/-- Settles O51: the two cases of an idle consumer of the flag-bit protocol, and its done step, which writes
the flag word alone. -/
theorem flagConsumerBeginsAndFrees : Obligations.FlagConsumerBeginsAndFrees := by
  intro s keep15 ts hturn hproto
  rw [step_consumer hturn]
  refine ⟨fun hidle hbusy => ?begins, fun hidle hfree => ?passes, fun hread => ?frees⟩
  case begins =>
    rw [State.consumerStep_idle_flag (s := { s with turns := ts }) hidle hproto]
    exact congrArg _ (if_pos hbusy)
  case passes =>
    rw [State.consumerStep_idle_flag (s := { s with turns := ts }) hidle hproto]
    exact congrArg _ (if_neg (Bool.eq_false_iff.1 hfree))
  case frees =>
    rw [State.consumerStep_done_flag (s := { s with turns := ts }) hread hproto]
    have hword := s.halfAt_writeHalf_self s.mapBase (freedWord (s.halfAt s.mapBase) keep15)
    obtain ⟨-, -, hother⟩ := s.byteAt_writeHalf_bytes s.mapBase (freedWord (s.halfAt s.mapBase) keep15)
    have hbit (k : Nat) := (congrArg (BitVec.getLsbD · k) hword).trans (getLsbD_freedWord _ keep15 k)
    refine ⟨_, rfl, rfl, ?busy, ?new, fun k hk8 hk15 => ?rest, hother⟩
    case busy => exact hbit 8
    case new => exact hbit 15
    case rest => exact (hbit k).trans (by simp [hk8, hk15])

/-! ### Reads -/

/-- `s` with its consumer at word `k` of the block at `a`, the words before it read from shared memory as `s`
has it (R218), and the turns `ts` to come. -/
def State.readUpTo (s : State) (a : Word) (k : Nat) (ts : List Turn) : State :=
  { s with
    consumer := .reading a k, buf := (List.range k).map fun i => s.halfAt (a + address (2 * i)), turns := ts }

/-- A consumer that begins a block has read none of it. -/
theorem State.readUpTo_zero {s : State} {a : Word} (hreading : s.consumer = .reading a 0) (hbuf : s.buf = []) :
    s = s.readUpTo a 0 s.turns := by
  rw [State.readUpTo, ← hreading, List.range_zero, List.map_nil, ← hbuf]

/-- A turn takes the consumer one word further. -/
theorem State.readUpTo_step {k : Nat} (hk : k < 4096) (s : State) (a : Word) (b : Bool) (ts : List Turn) :
    step (s.readUpTo a k (.consumer b :: ts)) = .next (s.readUpTo a (k + 1) ts) := by
  rw [step_consumer rfl, State.consumerStep_read (a := a) (k := k) rfl hk]
  simp only [State.readUpTo, State.consumerRead, List.range_succ, List.map_append]
  rfl

/-- As many turns as there are words left to read take the consumer over them, and the turns after them are
left. -/
theorem run_reads {s : State} {a : Word} {b : Bool} {m n : Nat} (hm : m ≤ 4096)
    (hreading : s.consumer = .reading a 0) (hbuf : s.buf = [])
    (hturns : s.turns = List.replicate (m + n) (.consumer b)) :
    Sys2Proof.core.run m s = .next (s.readUpTo a m (List.replicate n (.consumer b))) := by
  obtain ⟨t, ht, ⟨ts, rfl⟩, hrest⟩ := run_replicate (P := fun k x => ∃ ts, x = s.readUpTo a k ts)
    (Nat.le_add_right m n) hturns ⟨_, State.readUpTo_zero hreading hbuf⟩ fun k hk x ts ⟨_, hx⟩ hturn => by
      subst hx
      cases hturn
      exact ⟨_, State.readUpTo_step (by omega) s a b ts, ts, rfl⟩
  rw [Nat.add_sub_cancel_left] at hrest
  rw [ht, ← hrest]
  rfl

/-- The turn after the last read emits the block in the address-handoff protocol (R219). -/
theorem State.readUpTo_done {s : State} {k : Nat} (hproto : s.cproto = .addr) (hk : k = 4096) (a : Word)
    (b : Bool) (ts : List Turn) :
    step (s.readUpTo a k (.consumer b :: ts)) = .next { s with
      consumer := .idle, buf := (List.range k).map fun i => s.halfAt (a + address (2 * i))
      emitted := s.emitted ++ [(List.range k).map fun i => s.halfAt (a + address (2 * i))], turns := ts } :=
  (step_consumer rfl).trans (congrArg _ (State.consumerStep_done_addr (s := s.readUpTo a k ts)
    (congrArg (Consumer.reading a) hk) hproto b))

/-- Settles O52: a read step, the run of reads, and the done step after it. -/
theorem consumerEmitsTheBlockItReads : Obligations.ConsumerEmitsTheBlockItReads := by
  refine ⟨fun s a k b ts hturn hreading hk => ?read, fun s a b hreading hbuf hturns => ?reads,
    fun s a b hproto hreading hbuf hturns => ?emits⟩
  case read =>
    rw [step_consumer hturn, State.consumerStep_read (s := { s with turns := ts }) hreading hk]
    rfl
  case reads => exact run_reads (m := 4096) (n := 0) le_rfl hreading hbuf hturns
  case emits =>
    have hreads := run_reads (m := 4096) (n := 1) le_rfl hreading hbuf hturns
    exact (run_add hreads 1).trans (run_one (State.readUpTo_done hproto rfl a b []))

end Sys2Proof.Machine
end

section
/-! The host port (10_state.md R40 to R46) and the platform's launch (70_reset_and_hazards.md R282, R284): the
register map offset by offset, the fields of the words it reads, what a write does, and the settlements of
the four statements about them. -/

namespace Sys2Proof.Machine

/-! ### The register map -/

/-- Past the registers an offset names an entry of a window or nothing (R40). -/
theorem portReg_of_ge {off : Nat} (h : 0x028 ≤ off) : portReg off =
    if 0x400 ≤ off ∧ off < 0x800 then .prog (Fin.ofNat 256 ((off - 0x400) / 4))
    else if 0x2000 ≤ off ∧ off < 0x4000 then .msgw (Fin.ofNat 2048 ((off - 0x2000) / 4))
    else .unmapped := by
  unfold portReg
  split
  case h_11 => rfl
  all_goals omega

/-- The offset of a program-store entry. -/
theorem portReg_prog (k : Fin 256) : portReg (0x400 + 4 * k.val) = .prog k := by
  have hk := k.isLt
  rw [portReg_of_ge (by omega), if_pos (by omega)]
  refine congrArg PortReg.prog (Fin.ext ?_)
  simp only [Fin.ofNat]
  omega

/-- The offset of a message-store entry. -/
theorem portReg_msgw (m : Fin 2048) : portReg (0x2000 + 4 * m.val) = .msgw m := by
  have hm := m.isLt
  rw [portReg_of_ge (by omega), if_neg (by omega), if_pos (by omega)]
  refine congrArg PortReg.msgw (Fin.ext ?_)
  simp only [Fin.ofNat]
  omega

/-- The offsets between the registers and the windows, and between the windows, name nothing. -/
theorem portReg_unmapped {off : Nat} (hlow : 0x028 ≤ off) (hgap : off < 0x400 ∨ (0x800 ≤ off ∧ off < 0x2000)) :
    portReg off = .unmapped := by
  rw [portReg_of_ge hlow, if_neg (by omega), if_neg (by omega)]

/-! ### The words a host reads -/

/-- `CTRL` (R41). -/
theorem State.ctrlWord_toNat (s : State) : s.ctrlWord.toNat = (!s.halted).toNat := by
  rw [State.ctrlWord, BitVec.toNat_cast, toNat_append_add, BitVec.toNat_ofBool, BitVec.toNat_ofNat]
  omega

/-- `STATUS` (R42). -/
theorem State.statusWord_toNat (s : State) :
    s.statusWord.toNat = s.halted.toNat + 2 * s.fault.toNat + 4 * s.waiting.toNat
        + 8 * s.sb.isEmpty.toNat + 2 ^ 4 * s.cause.toNat + 2 ^ 8 * s.faultpc.toNat
        + 2 ^ 16 * s.pc.toNat := by
  simp only [State.statusWord, State.sbEmpty, BitVec.toNat_cast, toNat_append_add, BitVec.toNat_ofBool,
    BitVec.toNat_ofNat]
  omega

/-- `SEQSTATE` (R43). -/
theorem State.seqstateWord_toNat (s : State) :
    s.seqstateWord.toNat = s.offset.toNat + 2 ^ 16 * s.old.toNat + 2 ^ 17 * s.cur.toNat
        + 2 ^ 18 * s.new.toNat + 2 ^ 19 * s.phase.toNat + 2 ^ 20 * s.v.toNat := by
  simp only [State.seqstateWord, BitVec.toNat_cast, toNat_append_add, BitVec.toNat_ofBool,
    BitVec.toNat_ofNat]
  omega

/-- `CURSOR` (R43). -/
theorem State.cursorWord_toNat (s : State) : s.cursorWord.toNat = s.j.toNat := by
  rw [State.cursorWord, BitVec.toNat_cast, toNat_append_add, BitVec.toNat_ofNat]
  omega

/-- Zero-extension of `MSGLEN` (R44). -/
theorem unsignedResult_toNat (x : BitVec 16) : (unsignedResult x).toNat = x.toNat := by
  have hx := x.isLt
  rw [unsignedResult, BitVec.toNat_setWidth]
  omega

/-- A message bit by its word and its place in it (R45). -/
theorem State.msgBit_eq (s : State) {n : BitVec 16} {m b : Nat} (hm : m < 2048) (hb : b < 32)
    (hn : n.toNat = 32 * m + b) : s.msgBit n = s.msg[m].getLsbD b := by
  have hword : n.toNat / 32 = m := by omega
  have hbit : n.toNat % 32 = b := by omega
  simp only [State.msgBit, hword, hbit]

/-- A host read inside the window is never refused (R46). -/
theorem hostReadTurn_ok {off : Nat} (haligned : off % 4 = 0) (hwindow : off < 0x4000) (s : State) :
    hostReadTurn off 4 s = .next { s with hostSeen := s.hostSeen ++ [s.portRead (portReg off)] } := by
  simp [hostReadTurn, portAccessOk, haligned, hwindow]

/-- Settles O54: register by register, window by window. -/
theorem hostReadsTheRegisterMap : Obligations.HostReadsTheRegisterMap := by
  intro s off ts hturn haligned hwindow
  refine ⟨s.portRead (portReg off), (step_turn hturn).trans (hostReadTurn_ok haligned hwindow _), ?ctrl,
    ?status, ?res, ?seqstate, ?cursor, ?fc, ?wcnt, ?base, ?waitlim, ?msglen, fun k => ?prog, fun m b => ?msg,
    fun hlow hgap => ?unmapped⟩
  case ctrl => rintro rfl; exact s.ctrlWord_toNat
  case status => rintro rfl; exact s.statusWord_toNat
  case res => rintro rfl; rfl
  case seqstate => rintro rfl; exact s.seqstateWord_toNat
  case cursor => rintro rfl; exact s.cursorWord_toNat
  case fc => rintro rfl; rfl
  case wcnt => rintro rfl; rfl
  case base => rintro rfl; rfl
  case waitlim => rintro rfl; rfl
  case msglen => rintro rfl; exact unsignedResult_toNat s.msglen
  case prog =>
    rintro rfl
    rw [portReg_prog]
    rfl
  case msg =>
    rintro rfl hb
    have hm := m.isLt
    rw [portReg_msgw, s.msgBit_eq m.isLt hb (by rw [BitVec.toNat_ofNat]; omega)]
    rfl
  case unmapped => rw [portReg_unmapped hlow hgap]; rfl

/-! ### Host writes -/

/-- A host write while the producer runs is ignored (R46 (3)). -/
theorem State.portWrite_running {s : State} (hrunning : s.halted = false) (r : PortReg) (w : Word) :
    s.portWrite r w = s := by
  rcases s.portWrite_cases r w with e | ⟨-, -, hhalted, -⟩ | ⟨hhalted, -⟩
  · exact e
  · exact absurd hhalted (Bool.eq_false_iff.1 hrunning)
  · exact absurd hhalted (Bool.eq_false_iff.1 hrunning)

/-- A step in an explicit turn of a host write inside the window. -/
theorem step_hostWrite {s : State} {off : Nat} {w : Word} {ts : List Turn}
    (hturn : s.turns = .hostWrite off 4 w :: ts) (haligned : off % 4 = 0) (hwindow : off < 0x4000) :
    step s = .next ({ s with turns := ts }.portWrite (portReg off) w) :=
  (step_turn hturn).trans (hostWriteTurn_ok haligned hwindow w _)

/-- A write of a message word sets its 32 bits and no other (R45). -/
theorem State.msgBit_set (s : State) (m : Fin 2048) (w : Word) (n : BitVec 16) :
    ({ s with msg := s.msg.set m w }).msgBit n
      = if n.toNat / 32 = m.val then w.getLsbD (n.toNat % 32) else s.msgBit n := by
  simp only [State.msgBit, Vector.getElem_set, eq_comm (a := m.val)]
  split_ifs <;> rfl

/-- Settles O55: while the producer runs nothing is written, and while it is halted each register and window
takes its own write. -/
theorem hostWritesConfigurationWhileHalted : Obligations.HostWritesConfigurationWhileHalted := by
  intro s w ts
  refine ⟨fun off hturn haligned hwindow hrunning => ?running, fun hhalted =>
    ⟨fun hturn => ?base, fun hturn => ?waitlim, fun hturn => ?msglen, fun k hturn => ?prog,
      fun m hturn => ?msg⟩⟩
  case running =>
    rw [step_hostWrite hturn haligned hwindow, State.portWrite_running (s := { s with turns := ts }) hrunning]
  all_goals have hset (t : State) : ({ s with turns := ts } : State).whileHalted t = t := if_pos hhalted
  case base => exact (step_hostWrite hturn rfl (by norm_num)).trans (congrArg _ (hset _))
  case waitlim => exact (step_hostWrite hturn rfl (by norm_num)).trans (congrArg _ (hset _))
  case msglen => exact (step_hostWrite hturn rfl (by norm_num)).trans (congrArg _ (hset _))
  case prog =>
    have hk := k.isLt
    have hstep := step_hostWrite hturn (by omega) (by omega)
    rw [portReg_prog] at hstep
    refine ⟨_, hstep.trans (congrArg _ (hset _)), rfl, ?_, fun k' hne => ?_⟩
    · exact Vector.getElem_set_self k.isLt
    · exact Vector.getElem_set_ne k.isLt k'.isLt fun h => hne (Fin.ext h.symm)
  case msg =>
    have hm := m.isLt
    have hstep := step_hostWrite hturn (by omega) (by omega)
    rw [portReg_msgw] at hstep
    exact ⟨_, hstep.trans (congrArg _ (hset _)), rfl, s.msgBit_set m w⟩

/-- Settles O56: an access that is not inside the window as 32 aligned bits is refused, and a write of the
read-only registers and of offsets that name nothing is ignored. -/
theorem hostAccessRules : Obligations.HostAccessRules := by
  intro s off width w ts
  refine ⟨fun hbad hturn => ?refused, fun hturn haligned hwindow hoff => ?ignored⟩
  case refused =>
    have hno : portAccessOk off width = false := by
      rw [← Bool.not_eq_true]
      simpa [portAccessOk, and_assoc] using hbad
    rcases hturn with hturn | hturn <;> rw [step_turn hturn]
    · simp [takeTurn, hostReadTurn, hno]
    · simp [takeTurn, hostWriteTurn, hno]
  case ignored =>
    rw [step_hostWrite hturn haligned hwindow]
    rcases hoff with ⟨hlow, hhigh⟩ | hgap
    · obtain rfl | rfl | rfl | rfl | rfl | rfl :
          off = 0x004 ∨ off = 0x008 ∨ off = 0x00C ∨ off = 0x010 ∨ off = 0x014 ∨ off = 0x018 := by omega
      all_goals rfl
    · rw [portReg_unmapped (by omega) (by omega)]
      rfl

/-! ### The launch -/

/-- The launch clears bit 8 of the flag word and no other (70_reset_and_hazards.md R284). -/
theorem getLsbD_and_notBusy (f : Half) (k : Nat) :
    (f &&& 0xFEFF#16).getLsbD k = (decide (k ≠ 8) && f.getLsbD k) := by
  rcases Nat.lt_or_ge k 16 with hk | hk
  · have keep : ∀ k < 16, (0xFEFF#16).getLsbD k = decide (k ≠ 8) := by decide
    rw [BitVec.getLsbD_and, keep k hk, Bool.and_comm]
  · rw [BitVec.getLsbD_of_ge _ _ hk, BitVec.getLsbD_of_ge _ _ hk, Bool.and_false]

/-- The launch does not change the low byte of the flag word. -/
theorem extractLsb'_and_notBusy (f : Half) : (f &&& 0xFEFF#16).extractLsb' 0 8 = f.extractLsb' 0 8 := by
  apply BitVec.eq_of_getLsbD_eq
  intro k hk
  simp only [BitVec.getLsbD_extractLsb', Nat.zero_add, getLsbD_and_notBusy]
  rw [decide_eq_true (by omega : k ≠ 8), Bool.true_and]

/-- The low byte of a 16-bit value of shared memory (20_memory.md R60). -/
theorem State.extractLsb'_halfAt (s : State) (a : Word) : (s.halfAt a).extractLsb' 0 8 = s.byteAt a.toNat := by
  apply BitVec.eq_of_getLsbD_eq
  intro k hk
  simp only [State.halfAt, BitVec.getLsbD_extractLsb', BitVec.getLsbD_append, Nat.zero_add, hk, decide_true,
    Bool.true_and, if_true]

/-- A launch changes the high byte of the flag word alone, and in it bit 8 alone. -/
theorem State.byteAt_launch {s : State} {base : Word} {x : Nat} (hx : x ≠ (base + 1#32).toNat) (n : Nat)
    (p : Protocol) : (s.launch base n p).byteAt x = s.byteAt x := by
  obtain ⟨hlow, -, hother⟩ := s.byteAt_writeHalf_bytes base (s.halfAt base &&& 0xFEFF#16)
  by_cases h : x = base.toNat
  · subst h
    rw [extractLsb'_and_notBusy, State.extractLsb'_halfAt] at hlow
    exact hlow
  · exact hother x h hx

/-- Settles O57: the three cases of a launch turn. -/
theorem launchEstablishesThePremises : Obligations.LaunchEstablishesThePremises := by
  intro s base bytes proto ts hturn
  rw [step_turn hturn, takeTurn, launchTurn]
  refine ⟨fun hok hhalted => ?launch, fun hok hrunning => ?running,
    fun hbad => if_neg (Bool.eq_false_iff.1 hbad)⟩
  case launch =>
    refine ⟨({ s with turns := ts } : State).launch base bytes proto, ?_, rfl, fun k => ?_, fun x hx => ?_⟩
    · simp [hok, hhalted]
    · exact (congrArg (BitVec.getLsbD · k) (s.halfAt_writeHalf_self base _)).trans (getLsbD_and_notBusy _ k)
    · exact State.byteAt_launch (s := { s with turns := ts }) hx bytes proto
  case running => simp [hok, hrunning]

end Sys2Proof.Machine
end

section
/-! The assembler (30_encoding.md R101 to R103): one-line programs, what stands where in a program that
assembles and which programs do, the numbers, comments, labels and operands of a source text, and the
settlement of the statement about them. -/

namespace Sys2Proof.Machine

/-! ### One line -/

/-- No operation expands to more words than the program store holds (R102). -/
theorem asmSize_le (op : AsmOp) : asmSize op ≤ 4 := by
  cases op <;> simp [asmSize]

/-- The assembly of one line starts from its own label alone. -/
theorem assembleLines_single (l : AsmLine) : assembleLines [l] = asmWords (asmLabels 0 [l]) [l] := by
  have hsize := asmSize_le l.op
  have hnodup : ((asmLabels 0 [l]).map Prod.fst).Nodup := by
    rw [asmLabels_names]
    cases h : l.label <;> simp [h]
  simp only [assembleLines, List.map_cons, List.map_nil, List.sum_cons, List.sum_nil]
  rw [if_neg (by omega), if_pos hnodup]

/-- A line in range stands as the words of its operations. -/
theorem assembleLines_unlabelled (op : AsmOp) (is : List Instr) (hrange : op.wellFormed = true)
    (his : asmInstrs [] op = .ok is) : assembleLines [⟨none, op⟩] = .ok (is.map encode) := by
  rw [assembleLines_single]
  simp [asmLabels, asmWords, hrange, his]

/-- A line out of range is refused (R101). -/
theorem assembleLines_out_of_range {l : AsmLine} (h : l.op.wellFormed = false) :
    assembleLines [l] = .error .operandRange := by
  rw [assembleLines_single]
  simp [asmWords, h]

/-- The number of a field is read back from it. -/
theorem ofNat_toNat_field {n : Nat} (x : BitVec n) : BitVec.ofNat n x.toNat = x := by
  rw [BitVec.ofNat_toNat, BitVec.setWidth_eq]

/-- A number in the field of `TGT` is in range. -/
theorem wellFormed_index (tgt : BitVec 8) : (AsmTarget.index tgt.toNat).wellFormed = true :=
  decide_eq_true tgt.isLt

/-! The operations with operands, each at any operands that its fields hold. -/

theorem assembleLines_loopj (tgt : BitVec 8) :
    assembleLines [⟨none, .loopj (.index tgt.toNat)⟩] = .ok [encode (.loopj tgt)] :=
  assembleLines_unlabelled (.loopj (.index tgt.toNat)) [.loopj tgt] (wellFormed_index tgt)
    (by simp [asmInstrs, asmTarget, Except.map])

theorem assembleLines_jmp (tgt : BitVec 8) :
    assembleLines [⟨none, .jmp (.index tgt.toNat)⟩] = .ok [encode (.jmp tgt)] :=
  assembleLines_unlabelled (.jmp (.index tgt.toNat)) [.jmp tgt] (wellFormed_index tgt)
    (by simp [asmInstrs, asmTarget, Except.map])

theorem assembleLines_lut (idx : BitVec 7) :
    assembleLines [⟨none, .lut idx.toNat⟩] = .ok [encode (.lut idx)] :=
  assembleLines_unlabelled (.lut idx.toNat) [.lut idx] (decide_eq_true idx.isLt)
    (by rw [asmInstrs, ofNat_toNat_field])

theorem assembleLines_shuf (x : BitVec 8) :
    assembleLines [⟨none, .shuf x.toNat⟩] = .ok [encode (.shuf x)] :=
  assembleLines_unlabelled (.shuf x.toNat) [.shuf x] (decide_eq_true x.isLt)
    (by rw [asmInstrs, ofNat_toNat_field])

section
variable (v : BitVec 3) (pj : BitVec 9) (si : BitVec 12)

/-- The numbers of the fields of format G are in range. -/
theorem wellFormed_triple :
    (decide (v.toNat < 8) && decide (pj.toNat < 512) && decide (si.toNat < 4096)) = true := by
  rw [decide_eq_true v.isLt, decide_eq_true pj.isLt, decide_eq_true si.isLt]
  rfl

theorem assembleLines_dds :
    assembleLines [⟨none, .dds v.toNat pj.toNat si.toNat⟩] = .ok [encode (.dds v pj si)] :=
  assembleLines_unlabelled (.dds v.toNat pj.toNat si.toNat) [.dds v pj si] (wellFormed_triple v pj si)
    (by rw [asmInstrs, ofNat_toNat_field, ofNat_toNat_field, ofNat_toNat_field])

theorem assembleLines_gen :
    assembleLines [⟨none, .gen v.toNat pj.toNat si.toNat⟩] = .ok [encode (.gen v pj si)] :=
  assembleLines_unlabelled (.gen v.toNat pj.toNat si.toNat) [.gen v pj si] (wellFormed_triple v pj si)
    (by rw [asmInstrs, ofNat_toNat_field, ofNat_toNat_field, ofNat_toNat_field])

end

/-! ### Programs -/

/-- The number of operations of a program. -/
def programSize (ls : List AsmLine) : Nat := (ls.map fun l => asmSize l.op).sum

/-- The words of the first lines of a program are as many as their operations, and the rest of its words are
the rest's. -/
theorem asmWords_append {labels : List (List Char × Nat)} {pre post : List AsmLine} {ws : List Word}
    (h : asmWords labels (pre ++ post) = .ok ws) :
    asmWords labels post = .ok (ws.drop (programSize pre)) := by
  induction pre generalizing ws with
  | nil => exact h
  | cons l pre ih =>
    obtain ⟨-, is, vs, his, hvs, rfl⟩ := asmWords_cons h
    have hlen : (is.map encode).length = asmSize l.op := by rw [List.length_map, asmInstrs_length his]
    rw [ih hvs, programSize, programSize, List.map_cons, List.sum_cons, ← hlen, List.drop_length_add_append]

/-- A name that labels one line only is found at that line. -/
theorem find?_of_nodup {labels : List (List Char × Nat)} {name : List Char} {k : Nat}
    (hnodup : (labels.map Prod.fst).Nodup) (h : (name, k) ∈ labels) :
    labels.find? (fun p => p.1 = name) = some (name, k) := by
  obtain ⟨before, after, rfl⟩ := List.mem_iff_append.1 h
  rw [List.find?_eq_some_iff_append]
  refine ⟨by simp, before, after, rfl, fun p hp => ?_⟩
  rw [List.map_append, List.nodup_append] at hnodup
  obtain ⟨-, -, hdisjoint⟩ := hnodup
  simpa using hdisjoint p.1 (List.mem_map_of_mem hp) name (by simp)

/-- What stands in a program that assembles (R101, R102). -/
theorem assembleLines_line {ls : List AsmLine} {ws : List Word} (h : assembleLines ls = .ok ws)
    {pre post : List AsmLine} {l : AsmLine} (hls : ls = pre ++ l :: post) :
    l.op.wellFormed = true
    ∧ (∃ is, asmInstrs (asmLabels 0 ls) l.op = .ok is ∧ is.length = asmSize l.op
      ∧ (ws.drop (programSize pre)).take (asmSize l.op) = is.map encode)
    ∧ ∀ name, l.label = some name →
      asmTarget (asmLabels 0 ls) (.label name) = .ok (BitVec.ofNat 8 (programSize pre)) := by
  obtain ⟨-, hnodup, hwords⟩ := assembleLines_ok h
  rw [← asmLabels_names 0] at hnodup
  have hrest : asmWords (asmLabels 0 ls) (l :: post) = .ok (ws.drop (programSize pre)) :=
    asmWords_append (by rw [← hls]; exact hwords)
  obtain ⟨hrange, is, vs, his, -, hws⟩ := asmWords_cons hrest
  have hlen := asmInstrs_length his
  refine ⟨hrange, ⟨is, his, hlen, ?words⟩, fun name hname => ?label⟩
  case words => rw [hws, ← hlen, ← List.length_map (f := encode), List.take_left]
  case label =>
    have hmem : (name, programSize pre) ∈ asmLabels 0 ls := by
      rw [hls, asmLabels_append]
      refine List.mem_append_right _ ?_
      simp [asmLabels, hname, programSize]
    rw [asmTarget, find?_of_nodup hnodup hmem]

/-- A label of some line stands for an index. -/
theorem asmTarget_label_ok {ls : List AsmLine} {name : List Char} (h : ∃ l ∈ ls, l.label = some name) :
    ∃ a, asmTarget (asmLabels 0 ls) (.label name) = .ok a := by
  have hname : name ∈ (asmLabels 0 ls).map Prod.fst := by
    rw [asmLabels_names]
    exact List.mem_filterMap.2 h
  obtain ⟨p, hp, hfst⟩ := List.mem_map.1 hname
  have hfound : ((asmLabels 0 ls).find? fun p => p.1 = name).isSome = true :=
    List.find?_isSome.2 ⟨p, hp, decide_eq_true hfst⟩
  obtain ⟨q, hq⟩ := Option.isSome_iff_exists.1 hfound
  exact ⟨_, by rw [asmTarget, hq]⟩

/-- A target whose label labels some line stands for an index. -/
theorem asmTarget_ok {ls : List AsmLine} {t : AsmTarget}
    (h : ∀ name, t = .label name → ∃ l ∈ ls, l.label = some name) :
    ∃ a, asmTarget (asmLabels 0 ls) t = .ok a := by
  cases t with
  | index n => exact ⟨_, rfl⟩
  | label name => exact asmTarget_label_ok (h name rfl)

/-- An operation whose target is labelled has its operations. -/
theorem asmInstrs_ok {ls : List AsmLine} {op : AsmOp}
    (h : ∀ name, op = .loopj (.label name) ∨ op = .jmp (.label name) → ∃ l ∈ ls, l.label = some name) :
    ∃ is, asmInstrs (asmLabels 0 ls) op = .ok is := by
  cases op with
  | loopj t =>
    obtain ⟨a, ha⟩ := asmTarget_ok (t := t) fun name ht => h name (.inl (by rw [ht]))
    exact ⟨[.loopj a], by rw [asmInstrs, ha]; rfl⟩
  | jmp t =>
    obtain ⟨a, ha⟩ := asmTarget_ok (t := t) fun name ht => h name (.inr (by rw [ht]))
    exact ⟨[.jmp a], by rw [asmInstrs, ha]; rfl⟩
  | _ => exact ⟨_, rfl⟩

/-- Lines in range that have their operations have words, one for each operation. -/
theorem asmWords_ok {labels : List (List Char × Nat)} {ls : List AsmLine}
    (h : ∀ l ∈ ls, l.op.wellFormed = true ∧ ∃ is, asmInstrs labels l.op = .ok is) :
    ∃ ws, asmWords labels ls = .ok ws ∧ ws.length = programSize ls := by
  induction ls with
  | nil => exact ⟨[], rfl, rfl⟩
  | cons l ls ih =>
    obtain ⟨⟨hrange, is, his⟩, hrest⟩ := List.forall_mem_cons.1 h
    obtain ⟨ws, hws, hlen⟩ := ih hrest
    refine ⟨is.map encode ++ ws, by simp [asmWords, hrange, his, hws], ?_⟩
    rw [List.length_append, List.length_map, asmInstrs_length his, hlen]
    rfl

/-- A program of lines in range, with its targets labelled, its labels distinct and no more operations than the
store has entries, assembles (R101; log entry 13). -/
theorem assembleLines_of_wellFormed {ls : List AsmLine} (hrange : ∀ l ∈ ls, l.op.wellFormed = true)
    (htargets : ∀ l ∈ ls, ∀ name, l.op = .loopj (.label name) ∨ l.op = .jmp (.label name) →
      ∃ l' ∈ ls, l'.label = some name)
    (hnodup : (ls.filterMap AsmLine.label).Nodup) (hfits : programSize ls ≤ 256) :
    ∃ ws, assembleLines ls = .ok ws ∧ ws.length = programSize ls := by
  obtain ⟨ws, hws, hlen⟩ := asmWords_ok (labels := asmLabels 0 ls) fun l hl =>
    ⟨hrange l hl, asmInstrs_ok (htargets l hl)⟩
  have hshort : ¬ (ls.map fun l => asmSize l.op).sum > 256 := Nat.not_lt.2 hfits
  refine ⟨ws, ?_, hlen⟩
  rw [assembleLines, asmLabels_names, if_neg hshort, if_pos hnodup, hws]

/-! ### Numbers -/

/-- The digits of a number denote it, in decimal and in hexadecimal. -/
theorem digitsFrom_toDigits {b : Nat} (hb : b = 10 ∨ b = 16) (n : Nat) :
    digitsFrom b 0 (Nat.toDigits b n) = some n := by
  have hbase : 1 < b := by omega
  induction n using Nat.strong_induction_on with
  | h n ih =>
    rcases Nat.lt_or_ge n b with hn | hn
    · rw [Nat.toDigits_of_lt_base hn, digitsFrom, digitValue_digitChar hb hn]
      simp [digitsFrom]
    · rw [Nat.toDigits_of_base_le hbase hn, digitsFrom_append, ih _ (Nat.div_lt_self (by omega) hbase),
        Option.bind_some, digitsFrom, digitValue_digitChar hb (Nat.mod_lt _ (by omega))]
      simp [digitsFrom, Nat.div_add_mod]

/-- A text with no `x` is read in decimal. -/
theorem parseNumber_decimal {cs : List Char} (hne : cs ≠ []) (hx : 'x' ∉ cs) :
    parseNumber cs = digitsFrom 10 0 cs := by
  unfold parseNumber
  split
  · contradiction
  · simp at hx
  · rfl

/-- A text after `0x` is read in hexadecimal. -/
theorem parseNumber_hex {cs : List Char} (hne : cs ≠ []) :
    parseNumber ('0' :: 'x' :: cs) = digitsFrom 16 0 cs := by
  cases cs with
  | nil => contradiction
  | cons c cs => rfl

theorem parseNumber_toDigits (n : Nat) :
    parseNumber (Nat.toDigits 10 n) = some n ∧ parseNumber ('0' :: 'x' :: Nat.toDigits 16 n) = some n := by
  have hx : 'x' ∉ Nat.toDigits 10 n := fun h =>
    absurd (Nat.isDigit_of_mem_toDigits (by norm_num) le_rfl h) (by decide)
  rw [parseNumber_decimal Nat.toDigits_ne_nil hx, parseNumber_hex Nat.toDigits_ne_nil]
  exact ⟨digitsFrom_toDigits (.inl rfl) n, digitsFrom_toDigits (.inr rfl) n⟩

/-! ### Lines -/

/-- A text up to a character it does not hold is the text. -/
theorem takeWhile_ne_of_not_mem {c : Char} {cs : List Char} (h : c ∉ cs) :
    cs.takeWhile (fun x => x ≠ c) = cs :=
  List.takeWhile_eq_self_iff.2 fun _ hx => decide_eq_true fun e => h (e ▸ hx)

/-- The text before the first occurrence of a character, and the text from there on. -/
theorem takeWhile_ne_append {c : Char} {cs : List Char} (h : c ∉ cs) (rest : List Char) :
    (cs ++ c :: rest).takeWhile (fun x => x ≠ c) = cs
    ∧ (cs ++ c :: rest).dropWhile (fun x => x ≠ c) = c :: rest := by
  have hall : ∀ x ∈ cs, (decide (x ≠ c)) = true := fun _ hx => decide_eq_true fun e => h (e ▸ hx)
  rw [List.takeWhile_append_of_pos hall, List.dropWhile_append_of_pos hall]
  simp

/-- A comment does not matter (R101). -/
theorem parseLine_comment {code : List Char} (h : ';' ∉ code) (comment : List Char) :
    parseLine (code ++ ';' :: comment) = parseLine code := by
  obtain ⟨hcode, -⟩ := takeWhile_ne_append h comment
  rw [parseLine, parseLine, hcode, takeWhile_ne_of_not_mem h]

/-- The operation, if any, in a line's text after its label (R101). -/
def parseBody (cs : List Char) : Except AsmError (Option AsmOp) :=
  if (trimBlanks cs).isEmpty then .ok none
  else (parseOp ((trimBlanks cs).takeWhile fun c => !isBlank c)
    ((splitAtChar ',' ((trimBlanks cs).dropWhile fun c => !isBlank c)).map trimBlanks)).map some

/-- A line with no label and no comment is its body. -/
theorem parseLine_unlabelled {cs : List Char} (hcolon : ':' ∉ cs) (hsemi : ';' ∉ cs) :
    parseLine cs = (parseBody cs).map (Option.map fun op => ⟨none, op⟩) := by
  have hany : cs.any (fun c => c = ':') = false :=
    List.any_eq_false.2 fun _ hx => mt of_decide_eq_true fun e => hcolon (e ▸ hx)
  simp only [parseLine, takeWhile_ne_of_not_mem hsemi, hany, parseBody, Bool.false_eq_true, if_false]
  split_ifs
  · rfl
  · cases parseOp _ _ <;> rfl

/-- A line with a label and no comment is its body with the label, which needs an operation (log entry 13). -/
theorem parseLine_labelled {name body : List Char} (hname : ':' ∉ name) (hsemi : ';' ∉ name ++ ':' :: body) :
    parseLine (name ++ ':' :: body) =
      (parseBody body).bind fun op? => op?.elim (.error .labelWithoutOperation)
        fun op => .ok (some ⟨some (trimBlanks name), op⟩) := by
  have hany : (name ++ ':' :: body).any (fun c => c = ':') = true := by simp
  obtain ⟨hlabel, hbody⟩ := takeWhile_ne_append hname body
  simp only [parseLine, takeWhile_ne_of_not_mem hsemi, hany, hlabel, hbody, parseBody, List.tail_cons, if_true]
  split_ifs
  · rfl
  · cases parseOp _ _ <;> rfl

/-- A label stands before its line's operation, and only there. -/
theorem parseLine_label {name body : List Char} (hname : ':' ∉ name) (hnameSemi : ';' ∉ name)
    (hbody : ':' ∉ body) (hbodySemi : ';' ∉ body) :
    (∀ l, parseLine body = .ok (some l) →
      parseLine (name ++ ':' :: body) = .ok (some ⟨some (trimBlanks name), l.op⟩))
    ∧ (parseLine body = .ok none → parseLine (name ++ ':' :: body) = .error .labelWithoutOperation) := by
  have hsemi : ';' ∉ name ++ ':' :: body := by simp [hnameSemi, hbodySemi]
  rw [parseLine_unlabelled hbody hbodySemi, parseLine_labelled hname hsemi]
  cases parseBody body with
  | error e => exact ⟨nofun, nofun⟩
  | ok op? =>
    cases op? with
    | none => exact ⟨nofun, fun _ => rfl⟩
    | some op => exact ⟨fun l hl => by cases hl; rfl, nofun⟩

/-- A separator ends a piece. -/
theorem splitAtChar_append {c : Char} {piece : List Char} (h : c ∉ piece) (rest : List Char) :
    splitAtChar c (piece ++ c :: rest) = piece :: splitAtChar c rest := by
  induction piece with
  | nil => simp [splitAtChar]
  | cons x piece ih =>
    rw [List.mem_cons, not_or] at h
    rw [List.cons_append, splitAtChar, if_neg (Ne.symm h.1), ih h.2]

/-! ### Operands -/

/-- A number is a target. -/
theorem parseTarget_number {a : List Char} {x : Nat} (h : parseNumber a = some x) :
    parseTarget a = some (.index x) := by
  rw [parseTarget, h]

/-- A text that is no number and has no blank is a label. -/
theorem parseTarget_label {name : List Char} (h : parseNumber name = none) (hne : name ≠ [])
    (hblank : ∀ c ∈ name, isBlank c = false) : parseTarget name = some (.label name) := by
  have hplain : (name.isEmpty || name.any isBlank) = false := by simpa [hne] using hblank
  rw [parseTarget, h, hplain]
  rfl

/-- Settles O5: the closed texts and programs are evaluated; the other clauses are the lemmas above, and the
operations of a mnemonic follow from what its operands are read as. -/
theorem assemblerFollowsTheSyntax : Obligations.AssemblerFollowsTheSyntax := by
  refine ⟨fun tgt => ⟨assembleLines_loopj tgt, assembleLines_jmp tgt⟩, assembleLines_lut, assembleLines_shuf,
    fun v pj si => ⟨assembleLines_dds v pj si, assembleLines_gen v pj si⟩, rfl, rfl, rfl,
    fun _ => assembleLines_out_of_range, fun _ _ h _ _ _ => assembleLines_line h,
    fun _ => assembleLines_of_wellFormed, parseNumber_toDigits, fun _ comment h => parseLine_comment h comment,
    fun _ _ => parseLine_label, fun _ _ rest h => splitAtChar_append h rest,
    rfl, rfl, rfl, rfl, rfl, rfl, rfl, rfl, rfl, rfl, rfl, fun a x h => ?numbers,
    fun name h hne hblank => ?labels, fun a b c x y z ha hb hc => ?triples, rfl, rfl, rfl, rfl, rfl, rfl, rfl, rfl, rfl, rfl, rfl, rfl⟩
  case numbers =>
    have htarget := parseTarget_number h
    simp [parseOp, bareOp, targetOp, numberOp, tripleOp, h, htarget]
  case labels =>
    have htarget := parseTarget_label h hne hblank
    simp [parseOp, bareOp, targetOp, numberOp, tripleOp, htarget]
  case triples => simp [parseOp, bareOp, targetOp, numberOp, tripleOp, ha, hb, hc]

end Sys2Proof.Machine
end
